-- ==== Sys2Proof/Word.lean ====
section
/-!
DEFINITION. The word and register-file types of LKCORE and nothing else.
Every integer of the block is unsigned and bit `i` has weight `2^i` (R10, G1).
-/

namespace Sys2Proof

/-- A byte of the transmit stream or of the report buffer (R24, R68). -/
abbrev Byte := BitVec 8

/-- One micro-operation word: `op` in bits 7:4, `arg` in bits 3:0 (R91). -/
abbrev Word := BitVec 8

/-- The operand field of a word, an unsigned integer 0..15 (R93). -/
abbrev Arg := BitVec 4

/-- A channel address 0..15, the value of the four selection lines (R61, R96). -/
abbrev ChanAddr := BitVec 4

/-- A micro-program address: the width of `UPC[5:0]` (R40). -/
abbrev UAddr := BitVec 6

/-- The Row Set: five one-bit registers, index = physical row (R21). -/
abbrev RowSet := Vector Bool 5

/-- The Column Set: twelve one-bit registers, index 0 = the directly wired column (R22). -/
abbrev ColSet := Vector Bool 12

/-- The pressed-cell vector: sixty one-bit registers indexed `[tr][tc]` by key-map cell (R23). -/
abbrev CellVec := Vector (Vector Bool 12) 5

end Sys2Proof
end

