-- ==== Sys2Proof/Config.lean ====
section
/-!
DEFINITION. What one implementation of LKCORE fixes (the parameters of R8) and the free values.

Every value the document leaves open is an `opaque` constant with no body: no proof can see what it is.
The parameters that some rule reads are gathered in the record `Params`.
`State.reset` copies `Config.params` into `State.params`, and no step writes that field again (R245(a)), so a
statement about every state is a statement about every parameter choice (log entry 1).
-/

namespace Sys2Proof

/-- A logic level of a line (R10). -/
inductive Level where
  | low
  | high
deriving DecidableEq, Repr, Inhabited

/-- A key symbol (R100): the five symbols the engine looks for, `"ctrl"`, and every other symbol of the table.
`other` stands for the symbols the document does not name, told apart by a number of the model's (log entry 13). -/
inductive Symbol where
  | caps
  | fn
  | alt
  | d
  | n
  | ctrl
  | other (id : Nat)
deriving DecidableEq, Repr, Inhabited

/-- Which mode flag a confirmation is about: `DBGMODE` or `STREAM` (R162, R163). -/
inductive ModeFlag where
  | dbgMode
  | stream
deriving DecidableEq, Repr, Inhabited

/-- The kind of a pause (R200). -/
inductive PauseKind where
  | confirm
  | splash
deriving DecidableEq, Repr, Inhabited

/-- What a read asks the environment: the shared signal line with a channel selected, the directly wired column
line, or the Display Sink's initialisation answer (R39, R66). -/
inductive InputLine where
  | sig (a : ChanAddr)
  | col0
  | dispOk
deriving DecidableEq, Repr, Inhabited

/-- The open parameters that some rule reads (R8). -/
structure Params where
  /-- `ROWCH[0..4]`: the channel address of each row (R72). -/
  rowCh : Vector ChanAddr 5
  /-- `COLCH[1..11]`: the channel address of each multiplexer-read column; position `j` holds `COLCH[j + 1]` (R97). -/
  colCh : Vector ChanAddr 11
  /-- `KEYMAP[0..4][0..11]`: the symbol of each key-map cell (R63). -/
  keyMap : Vector (Vector Symbol 12) 5
  /-- `ACTIVE_SIG`: the level that means active on the shared signal line (R8, D5). -/
  activeSig : Level
  /-- `ACTIVE_COL0`: the level that means active on the directly wired column line (R8, D5). -/
  activeCol0 : Level
  /-- `REPORT_TRAILING_SPACE` (R102, R186). -/
  trailingSpace : Bool
  /-- `NEWLINE`: the bytes that end a stream line (R105). -/
  newline : List Byte
deriving DecidableEq, Repr, Inhabited

/-- `ROWCH` of the hardware: no number in the document (N1). -/
opaque Config.rowCh : Vector ChanAddr 5
/-- `COLCH` of the hardware: no number in the document (N1). -/
opaque Config.colCh : Vector ChanAddr 11
/-- The key map's sixty symbols before the one cell the document fixes is put in (N2). -/
opaque Config.keyTable : Vector (Vector Symbol 12) 5
/-- `ACTIVE_SIG` of the hardware (N3). -/
opaque Config.activeSig : Level
/-- `ACTIVE_COL0` of the hardware (N3). -/
opaque Config.activeCol0 : Level
/-- `REPORT_TRAILING_SPACE` of the hardware (N8): both readings of the shape are open. -/
opaque Config.trailingSpace : Bool
/-- `NEWLINE` of the hardware (N8). -/
opaque Config.newline : List Byte
/-- `CONFIRM_TEXT`: the text a confirmation token stands for (D20).
No rule reads it: the block hands over the token (R162). -/
opaque Config.confirmText : ModeFlag → Bool → String
/-- `T_CONFIRM` and `T_SPLASH`, in a unit the document does not give (N5).
No rule reads them: the model has no time (R200, R264). -/
opaque Config.pauseLength : PauseKind → Nat
/-- `BAUD` (D19): no rule depends on it. -/
opaque Config.baud : Nat
/-- `T_SETTLE`: the document treats the line's propagation as instantaneous (R251, D21). -/
def Config.tSettle : Nat := 0

/-- THE FREE VALUE of an input: what the `n`-th unscripted read of a line answers (R66, U10).
For the two lines it is "does the line read active", for `dispOk` it is the answer itself.
It is a function of the read's number and of the line, and no law relates any two of its values (log entry 2). -/
opaque Config.freeInput : Nat → InputLine → Bool

/-- `KEYMAP` with the one cell the document gives: `KEYMAP[4][0] = "ctrl"` (R8, R98). -/
def Config.withCtrl (t : Vector (Vector Symbol 12) 5) : Vector (Vector Symbol 12) 5 :=
  t.set 4 (t[4].set 0 .ctrl)

/-- The parameters of the hardware. -/
def Config.params : Params where
  rowCh := Config.rowCh
  colCh := Config.colCh
  keyMap := Config.withCtrl Config.keyTable
  activeSig := Config.activeSig
  activeCol0 := Config.activeCol0
  trailingSpace := Config.trailingSpace
  newline := Config.newline

/-- `DBG_RESET`: debugging is on at start-up (R7). -/
def Config.dbgReset : Bool := true

/-- `STRM_RESET`: streaming is off at start-up (R7). -/
def Config.strmReset : Bool := false

end Sys2Proof
end

