-- ==== Sys2Proof/Syntax.lean ====
section
/-!
DEFINITION. The fifteen micro-operations of spec/opcode_table.json, one constructor per row (R92).
-/

namespace Sys2Proof

/-- A micro-operation. An operand is the word's `arg` field as it stands (R93); which values are legal is `Instr.WellFormed`. -/
inductive Instr where
  /-- `SEL a`: write channel address `a` to the selection lines (R130). -/
  | sel (a : Arg)
  /-- `RDR r`: sample the signal line into `ROW[r]` (R131). -/
  | rdr (r : Arg)
  /-- `RDC k`: sample the signal line into `COL[k]` (R132). -/
  | rdc (k : Arg)
  /-- `RDD`: sample the direct column line into `COL[0]` (R140). -/
  | rdd
  /-- `DEC`: compute the pressed-cell vector (R150). -/
  | dec
  /-- `FLG`: compute the five presence flags (R160). -/
  | flg
  /-- `CAPT`: caps edge detect, toggle, drive the caps line (R161). -/
  | capt
  /-- `CMD 0`: the debug chord (R162). -/
  | cmd0
  /-- `CMD 1`: the stream chord (R163). -/
  | cmd1
  /-- `FMT`: build the report line (R180). -/
  | fmt
  /-- `DISP`: send the cycle's frame to the Display Sink (R190). -/
  | disp
  /-- `TX`: send the report line to the Stream Sink if streaming (R191). -/
  | tx
  /-- `END`: close the cycle (R192). -/
  | endCycle
  /-- `BOOT`: take the display's initialisation answer (R193). -/
  | boot
  /-- `SPLASH`: show "Ready" and pause (R194). -/
  | splash
deriving DecidableEq, Repr

/-- Why the decoder rejects a word (R107). -/
inductive Reserved where
  /-- `op` is `0xE` or `0xF`. -/
  | opCode
  /-- `arg` is outside the legal range of its `op`. -/
  | operand
deriving DecidableEq, Repr

end Sys2Proof
end

