-- ==== Sys2Proof/WellFormed.lean ====
section
/-!
DEFINITION. Which micro-operations are legal (R93), and the one constraint on the parameters (R8).
-/

namespace Sys2Proof

/-- The legal operands of R93: `SEL` takes 0..15, `RDR` takes 0..4, `RDC` takes 1..11, no other operation has one. -/
def Instr.wellFormed : Instr → Bool
  | .sel _ => true
  | .rdr r => r.toNat ≤ 4
  | .rdc k => 1 ≤ k.toNat && k.toNat ≤ 11
  | .rdd => true
  | .dec => true
  | .flg => true
  | .capt => true
  | .cmd0 => true
  | .cmd1 => true
  | .fmt => true
  | .disp => true
  | .tx => true
  | .endCycle => true
  | .boot => true
  | .splash => true

/-- A micro-operation that some legal word stands for (R93, R112). -/
abbrev Instr.WellFormed (i : Instr) : Prop := i.wellFormed = true

/-- The one cell of the key map the document fixes: `KEYMAP[4][0] = "ctrl"` (R8, R98).
That every channel address is in 0..15 and that every cell holds a symbol is said by the types. -/
abbrev Params.WellFormed (p : Params) : Prop := p.keyMap[4][0] = Symbol.ctrl

/-- No symbol stands at two cells of the key map (R153).
It is a premise a claim may take, never a property of the machine (D4). -/
def Params.NoRepeats (p : Params) : Prop :=
  ∀ (tr tr' : Fin 5) (tc tc' : Fin 12), p.keyMap[tr][tc] = p.keyMap[tr'][tc'] → tr = tr' ∧ tc = tc'

end Sys2Proof
end

