-- ==== Sys2Proof/Decode.lean ====
section
/-!
DEFINITION. The decoder of R112 and the encoder of R91 to R93.
Every word is 8 bits (R91), so finding the next word needs no decoding.
-/

namespace Sys2Proof

/-- The field `op = word[7:4]` (R91). -/
def opField (w : Word) : Nat := (w.extractLsb' 4 4).toNat

/-- The field `arg = word[3:0]` (R91). -/
def argField (w : Word) : Arg := w.extractLsb' 0 4

/-- A row of R92 whose `arg` must be 0 (R93). -/
def noOperand (arg : Arg) (i : Instr) : Except Reserved Instr :=
  if arg = 0 then .ok i else .error .operand

/-- R112: look `op` up in the map of R92 and check `arg` against R93; every other word is reserved, by name (R107). -/
def decode (w : Word) : Except Reserved Instr :=
  let arg := argField w
  match opField w with
  | 0x0 => .ok (.sel arg)
  | 0x1 => if arg.toNat ≤ 4 then .ok (.rdr arg) else .error .operand
  | 0x2 => if 1 ≤ arg.toNat ∧ arg.toNat ≤ 11 then .ok (.rdc arg) else .error .operand
  | 0x3 => noOperand arg .rdd
  | 0x4 => noOperand arg .dec
  | 0x5 => noOperand arg .flg
  | 0x6 => noOperand arg .capt
  | 0x7 => if arg = 0 then .ok .cmd0 else if arg = 1 then .ok .cmd1 else .error .operand
  | 0x8 => noOperand arg .fmt
  | 0x9 => noOperand arg .disp
  | 0xA => noOperand arg .tx
  | 0xB => noOperand arg .endCycle
  | 0xC => noOperand arg .boot
  | 0xD => noOperand arg .splash
  | _ => .error .opCode

/-- The word with the given `op` and `arg` fields (R91). -/
def wordOf (op : BitVec 4) (arg : Arg) : Word := op ++ arg

/-- The word of a micro-operation, from the map of R92. -/
def encode : Instr → Word
  | .sel a => wordOf 0x0 a
  | .rdr r => wordOf 0x1 r
  | .rdc k => wordOf 0x2 k
  | .rdd => wordOf 0x3 0
  | .dec => wordOf 0x4 0
  | .flg => wordOf 0x5 0
  | .capt => wordOf 0x6 0
  | .cmd0 => wordOf 0x7 0
  | .cmd1 => wordOf 0x7 1
  | .fmt => wordOf 0x8 0
  | .disp => wordOf 0x9 0
  | .tx => wordOf 0xA 0
  | .endCycle => wordOf 0xB 0
  | .boot => wordOf 0xC 0
  | .splash => wordOf 0xD 0

/-- The 8-bit word a table row of `nbits` bits stands for: its low `nbits` bits are those of `w`, the bits above are 0. -/
def tableWord (nbits w : Nat) : Word := BitVec.ofNat 8 (w % 2 ^ nbits)

/-- What the decoder reads from a table row's word.
Every word of LKCORE has 8 bits (R91), so a row of more than one byte is no instruction. -/
def decodeTableWord (nbits w : Nat) : Option Instr :=
  if nbits ≤ 8 then
    match decode (tableWord nbits w) with
    | .ok i => some i
    | .error _ => none
  else none

end Sys2Proof
end

