-- ==== Sys2Proof/Machine/MicroProgram.lean ====
section
/-!
DEFINITION. The micro-program: forty-four words at addresses 0 to 43 of a 64-word space (R64, R94), and the
pseudo-instructions it is made of (R111).
-/

namespace Sys2Proof.Machine

/-- The micro-operation at micro-program address `a`, by the table of R94.
The operand of a `SEL` is the constant `ROWCH[r]` or `COLCH[k]` of the parameters (R93); 44 and up hold no word. -/
def microOp (p : Params) (a : Nat) : Option Instr :=
  if a < 2 then
    if a = 0 then some .boot else some .splash
  else if h : a < 12 then
    -- rows: `2 + 2r` selects, `3 + 2r` reads
    if a % 2 = 0 then some (.sel p.rowCh[(a - 2) / 2]) else some (.rdr (BitVec.ofNat 4 ((a - 3) / 2)))
  else if a = 12 then some .rdd
  else if h : a < 35 then
    -- multiplexer-read columns: `11 + 2k` selects, `12 + 2k` reads; `COLCH[k]` stands at position `k - 1`
    if a % 2 = 1 then some (.sel p.colCh[(a - 13) / 2]) else some (.rdc (BitVec.ofNat 4 ((a - 12) / 2)))
  else
    match a with
    | 35 => some .dec
    | 36 => some .flg
    | 37 => some .capt
    | 38 => some .cmd0
    | 39 => some .cmd1
    | 40 => some .fmt
    | 41 => some .disp
    | 42 => some .tx
    | 43 => some .endCycle
    | _ => none

/-- The word at micro-program address `a` (R94). -/
def microWord (p : Params) (a : Nat) : Option Word := (microOp p a).map encode

/-- How many micro-program addresses hold a word: 0 to 43 (R64, R94). The `UPC` values 44 to 63 are reserved (R107). -/
def microProgramSize : Nat := 44

/-- `CYCLE_START` (R94, R192). -/
def cycleStart : UAddr := 2

/-- Pseudo-instruction `SCANROW r` (R142). -/
def scanRow (p : Params) (r : Fin 5) : List Instr := [.sel p.rowCh[r], .rdr (BitVec.ofNat 4 r.val)]

/-- Pseudo-instruction `SCANCOL k` (R143), for the logical column `j = k - 1` (R97). -/
def scanCol (p : Params) (j : Fin 11) : List Instr := [.sel p.colCh[j], .rdc (BitVec.ofNat 4 (j.val + 1))]

/-- Pseudo-instruction `SCAN` (R111): 33 words. -/
def scanOps (p : Params) : List Instr :=
  (List.finRange 5).flatMap (scanRow p) ++ [.rdd] ++ (List.finRange 11).flatMap (scanCol p)

/-- Pseudo-instruction `ENGINE` (R111, R164). -/
def engineOps : List Instr := [.flg, .capt, .cmd0, .cmd1]

/-- Pseudo-instruction `CYCLE` (R111): 42 words. -/
def cycleOps (p : Params) : List Instr := scanOps p ++ [.dec] ++ engineOps ++ [.fmt, .disp, .tx, .endCycle]

/-- Pseudo-instruction `STARTUP` (R111). -/
def startupOps : List Instr := [.boot, .splash]

end Sys2Proof.Machine
end

