-- ==== Sys2Proof/Machine/State.lean ====
section
/-!
DEFINITION. The state of LKCORE as plain data (R20 to R46), the events of its trace (R14), the reasons it can stop,
and the state right after power-on (R44, R241).
-/

namespace Sys2Proof.Machine

/-- The five presence flags (R26). -/
structure Flags where
  /-- `F_CAPS`. -/
  caps : Bool
  /-- `F_FN`. -/
  fn : Bool
  /-- `F_ALT`. -/
  alt : Bool
  /-- `F_D`. -/
  d : Bool
  /-- `F_N`. -/
  n : Bool
deriving DecidableEq, Repr

/-- What crosses the interface to the Display Sink (R196). -/
inductive DispEvent where
  /-- `Clear`: a cleared canvas. -/
  | clear
  /-- `DebugText(s)`: the report line, shown while debugging. -/
  | debugText (s : List Byte)
  /-- `KeyLine(sym)`: one decoded key symbol on its own line. -/
  | keyLine (sym : Symbol)
  /-- `Confirm(which, v)`: a mode flag took the new value `v` (an abstract token, D20). -/
  | confirm (which : ModeFlag) (v : Bool)
  /-- `Splash(text)`: the start-up splash. -/
  | splash (text : String)
deriving DecidableEq, Repr

/-- The events of the trace, inputs and outputs (R14). -/
inductive Event where
  /-- `Sample(SIG, a, l)`: the signal line read level `l` with address `a` selected. -/
  | sampleSig (a : ChanAddr) (l : Level)
  /-- `Sample(COL0, l)`: the direct column line read level `l`. -/
  | sampleCol0 (l : Level)
  /-- `DispInit(ok)`: the Display Sink's initialisation answer. -/
  | dispInit (ok : Bool)
  /-- `SelWrite(a)`: the selection lines were written. -/
  | selWrite (a : ChanAddr)
  /-- `CapsOut(l)`: the caps line was written. -/
  | capsOut (l : Level)
  /-- `Disp(e)`: an event of the display stream. -/
  | disp (e : DispEvent)
  /-- `Tx(bytes)`: one line of the transmit stream. -/
  | tx (bytes : List Byte)
  /-- `Pause(kind)`: a pause that runs to completion. -/
  | pause (kind : PauseKind)
  /-- `Halt(cause)`: the permanent stop. -/
  | halt (cause : BitVec 2)
deriving DecidableEq, Repr

/-- The exceptions of the block: there is one (R210, R212). -/
inductive Exc where
  /-- The Display Sink answered its initialisation with failure. -/
  | displayInitFailure
deriving DecidableEq, Repr

/-- The state of LKCORE. The first four fields are the model's own, the rest are the spec's registers and streams. -/
structure State where
  /-- MODEL'S OWN: the parameters of this instance, fixed before reset and never written by a step (R8, R245(a); log entry 1). -/
  params : Params
  /-- MODEL'S OWN: the micro-program space as (address, word) cells that differ from the micro-program of R94.
  Empty on the hardware, whose micro-program is a constant (R64, R78); in the canonical form of `Memory.wf` (log entry 3). -/
  ustore : List Host.Cell
  /-- MODEL'S OWN: the input script (95_test_vectors part 3): the answers of the coming reads, next first, `true` = active or ok.
  When it is empty a read answers a free value (log entry 2). -/
  script : List Bool
  /-- MODEL'S OWN: how many free values the reads have taken (log entry 2). -/
  draws : Nat
  /-- `ROW[0..4]`, the Row Set (R21). -/
  row : RowSet
  /-- `COL[0..11]`, the Column Set (R22). -/
  col : ColSet
  /-- `P[0..4][0..11]`, the pressed-cell vector (R23). -/
  cells : CellVec
  /-- `F_CAPS`, `F_FN`, `F_ALT`, `F_D`, `F_N` (R26). -/
  flags : Flags
  /-- `RPT`, the report buffer (R24). -/
  rpt : List Byte
  /-- `DBG`, the mode flag `debuggingMode` (R27). -/
  dbg : Bool
  /-- `STRM`, the mode flag `startKB` (R28). -/
  strm : Bool
  /-- `CAPS`, the Caps Latch, `true` = ON (R29). -/
  caps : Bool
  /-- `PREVCAPS`, the Previous-Cycle Caps Presence (R30). -/
  prevCaps : Bool
  /-- `SELR[3:0]`, driving the selection lines `SEL3..SEL0` (R35). -/
  selr : ChanAddr
  /-- `CAPS_OUT`, the caps line (R36). -/
  capsOut : Level
  /-- The trace, oldest event first (R14); the display stream and the transmit stream are its parts
  `State.displayStream` and `State.transmitStream` (R37, R38). -/
  trace : List Event
  /-- `UPC[5:0]`, the micro-program counter (R40). -/
  upc : UAddr
  /-- `HALT`, the sticky halt bit (R41). -/
  halt : Bool
  /-- `CAUSE[1:0]`: 0 none, 1 `DisplayInitFailure`, 2 and 3 reserved (R41, R106). -/
  cause : BitVec 2
deriving DecidableEq, Repr

/-- Why the machine stops with a fault. -/
inductive Fault where
  /-- Raised by `step` when `HALT == 1`: the sequencer has no step (R41, R195, R216). Safe: the hardware does nothing either. -/
  | halted (cause : BitVec 2)
deriving DecidableEq, Repr

/-- Why the model refuses. -/
inductive Refusal where
  /-- Raised by an arm of `exec` that has no meaning yet: no arm of this model does. Safe. -/
  | notModelled (mnemonic : String)
  /-- Raised by `step` on a word outside the 44 legal ones (R107, D29). Safe: the hardware never decodes one. -/
  | reservedWord (w : Word) (why : Reserved)
  /-- Raised by `step` at each reserved `UPC` value 44..63 (R107, D29). Safe: the hardware never fetches there. -/
  | reservedAddress (a : UAddr)
  /-- Raised by `RDR` and `RDC` on an operand outside their legal range (R93, R107).
  The decoder yields no such micro-operation, so no step reaches it. Safe. -/
  | reservedOperand (i : Instr)
deriving DecidableEq, Repr

/-- The state after power-on (R44). Where the table says "unspecified" the value is the model's: log entries 5 and 6. -/
def State.reset : State where
  params := Config.params
  ustore := []
  script := []
  draws := 0
  row := #v[false, false, false, false, false]
  col := #v[false, false, false, false, false, false, false, false, false, false, false, false]
  cells := Vector.replicate 5 (Vector.replicate 12 false)
  flags := { caps := false, fn := false, alt := false, d := false, n := false }
  -- the report of nothing active, "R: , C: " (R182): a value R24's length range admits
  rpt := [0x52, 0x3A, 0x20, 0x2C, 0x20, 0x43, 0x3A, 0x20]
  dbg := Config.dbgReset
  strm := Config.strmReset
  caps := false
  prevCaps := false
  selr := 0
  capsOut := .low
  trace := []
  upc := 0
  halt := false
  cause := 0

end Sys2Proof.Machine
end

