-- ==== Sys2Proof/Machine/Ops.lean ====
section
/-!
DEFINITION. The named operations every meaning is written with: the micro-program space, the inputs, the trace,
the micro-program counter, and taking the one exception.
-/

namespace Sys2Proof.Machine

/-! The micro-program space (R64). It is the only byte memory of the block; an address 0..43 that no cell lists reads as
the micro-program's word, which is its content at reset. The addresses 44..63 are reserved and hold no word, ever (R107). -/

/-- The cell a list holds for an address. -/
def Memory.lookup (a : Nat) : List Host.Cell → Option Word
  | [] => none
  | (b, w) :: rest => if b = a then some w else Memory.lookup a rest

/-- The list without the cell of an address. -/
def Memory.erase (a : Nat) (m : List Host.Cell) : List Host.Cell := m.filter fun cell => cell.1 ≠ a

/-- The list with a cell put in at its place in address order. -/
def Memory.insert (a : Nat) (w : Word) : List Host.Cell → List Host.Cell
  | [] => [(a, w)]
  | (b, v) :: rest => if a < b then (a, w) :: (b, v) :: rest else (b, v) :: Memory.insert a w rest

/-- Writes a word; writing the word an unlisted address reads as removes the cell.
A reserved address takes no word (R107). -/
def Memory.write (p : Params) (a : Nat) (w : Word) (m : List Host.Cell) : List Host.Cell :=
  if microProgramSize ≤ a then m
  else if microWord p a = some w then Memory.erase a m
  else Memory.insert a w (Memory.erase a m)

/-- The canonical form: addresses 0..43, strictly rising, and no cell equal to the micro-program's word. -/
abbrev Memory.wf (p : Params) (m : List Host.Cell) : Prop :=
  (m.map Prod.fst).Pairwise (· < ·) ∧ ∀ cell ∈ m, cell.1 < microProgramSize ∧ microWord p cell.1 ≠ some cell.2

/-- The word at a micro-program address: one at each of 0..43, none at a reserved address, whatever is listed (R107, D29). -/
def State.readWord (s : State) (a : Nat) : Option Word :=
  if microProgramSize ≤ a then none
  else
    match Memory.lookup a s.ustore with
    | some w => some w
    | none => microWord s.params a

/-- Puts a word at the address the sequencer fetches next; nothing at a reserved address (R107).
No rule of the spec does this, since the micro-program is a constant (R78): it stands for building another one (log entry 4). -/
def State.placeWord (w : Word) (s : State) : State :=
  { s with ustore := Memory.write s.params s.upc.toNat w s.ustore }

/-! The trace and the micro-program counter. -/

/-- `Out(port, v)`: appends events to the trace (R14, R65). -/
def State.emit (es : List Event) (s : State) : State := { s with trace := s.trace ++ es }

/-- `UPC <- UPC + 1` (R40, R195), in a 6-bit register.
No step starts from 44..63 (R107), so none reaches the wrap at 63 (log entry 7). -/
def State.advance (s : State) : State := { s with upc := s.upc + 1 }

/-! The inputs (R39, R66). -/

/-- The answer the next read of a line gets: the script's next entry, or a free value when the script is empty. -/
def State.nextAnswer (line : InputLine) (s : State) : Bool :=
  match s.script with
  | b :: _ => b
  | [] => Config.freeInput s.draws line

/-- The state after an answer is taken. -/
def State.takeAnswer (s : State) : State :=
  { s with script := s.script.tail, draws := if s.script.isEmpty then s.draws + 1 else s.draws }

/-- The other level. -/
def otherLevel : Level → Level
  | .low => .high
  | .high => .low

/-- The level a line shows when it reads active (`true`) or not, given the level that means active (D5). -/
def levelFor (active : Level) (b : Bool) : Level := if b then active else otherLevel active

/-- `MemRead(SELR, 1)`: the level of the signal line with the address in `SELR` selected (R66). -/
def State.sigLevel (s : State) : Level := levelFor s.params.activeSig (s.nextAnswer (.sig s.selr))

/-- The state after `MemRead(SELR, 1)`: the answer is taken and the event `Sample(SIG, SELR, l)` recorded. -/
def State.afterMemRead (s : State) : State := s.takeAnswer.emit [.sampleSig s.selr s.sigLevel]

/-- `ColRead()`: the level of the directly wired column line (R66). -/
def State.col0Level (s : State) : Level := levelFor s.params.activeCol0 (s.nextAnswer .col0)

/-- The state after `ColRead()`: the answer is taken and the event `Sample(COL0, l)` recorded. -/
def State.afterColRead (s : State) : State := s.takeAnswer.emit [.sampleCol0 s.col0Level]

/-- `DISP_OK`: the Display Sink's initialisation answer (R39, R193). -/
def State.dispOk (s : State) : Bool := s.nextAnswer .dispOk

/-- The state after `DISP_OK` is sampled: the answer is taken and the event `DispInit(ok)` recorded. -/
def State.afterDispOk (s : State) : State := s.takeAnswer.emit [.dispInit s.dispOk]

/-! Exceptions. There is one, it saves nothing, changes no mode and has no handler (R215), and there is no return
from it (R217). -/

/-- The cause code of an exception (R211). -/
def Exc.code : Exc → BitVec 2
  | .displayInitFailure => 1

/-- `raise <Exception>()`: `HALT <- 1`, `CAUSE <- code`, event `Halt(code)`, `UPC` unchanged (R193, R215). -/
def State.raise (e : Exc) (s : State) : State :=
  { s with halt := true, cause := e.code, trace := s.trace ++ [.halt e.code] }

/-! The two output streams, read off the trace (R37, R38). -/

/-- The display stream: the `Disp` events handed to the Display Sink, in order (R37). -/
def State.displayStream (s : State) : List DispEvent :=
  s.trace.filterMap fun
    | .disp e => some e
    | _ => none

/-- The lines handed to the Stream Sink, in order (R38). -/
def State.txLines (s : State) : List (List Byte) :=
  s.trace.filterMap fun
    | .tx bytes => some bytes
    | _ => none

/-- The transmit stream: the bytes handed to the Stream Sink, in order (R38, R68). -/
def State.transmitStream (s : State) : List Byte := s.txLines.flatten

end Sys2Proof.Machine
end

