-- ==== Sys2Proof/Machine/Operands.lean ====
section
/-!
DEFINITION. The operand forms and index translations: polarity (R12), the selection lines (R96), the index
reversal of the key map (R73(b)) and the packed notations (R32, R99).
-/

namespace Sys2Proof.Machine

/-- `active_sig(l)` is `(l == ACTIVE_SIG)` (R12). -/
def activeSig (p : Params) (l : Level) : Bool := l == p.activeSig

/-- `active_col0(l)` is `(l == ACTIVE_COL0)` (R12). -/
def activeCol0 (p : Params) (l : Level) : Bool := l == p.activeCol0

/-- A one-bit register's level on its line: 1 is `HIGH`, 0 is `LOW` (R96, R101). -/
def bitLevel (b : Bool) : Level := if b then .high else .low

/-- The level of selection line `SELi`: bit `i` of `SELR` (R35, R96). -/
def State.selLine (s : State) (i : Fin 4) : Level := bitLevel (s.selr.getLsbD i.val)

/-- `tr = 4 - r`, and its own inverse (R73(b)). -/
def revRow (r : Fin 5) : Fin 5 := ⟨4 - r.val, by omega⟩

/-- `tc = 11 - c`, and its own inverse (R73(b)). -/
def revCol (k : Fin 12) : Fin 12 := ⟨11 - k.val, by omega⟩

/-- `KeyRead(tr, tc)`: the symbol of a key-map cell (R12, R63). -/
def keyRead (p : Params) (tr : Fin 5) (tc : Fin 12) : Symbol := p.keyMap[tr][tc]

/-- The symbol of the key at physical row `r`, physical column `k` (R98). -/
def keyAt (p : Params) (r : Fin 5) (k : Fin 12) : Symbol := keyRead p (revRow r) (revCol k)

/-- `PSTATE[3:0] = {STRM, DBG, PREVCAPS, CAPS}` (R32). -/
def State.pstate (s : State) : BitVec 4 :=
  BitVec.ofBool s.strm ++ BitVec.ofBool s.dbg ++ BitVec.ofBool s.prevCaps ++ BitVec.ofBool s.caps

/-- A packed form: bit `i` is entry `i` of the list. -/
def packBits : List Bool → Nat
  | [] => 0
  | b :: rest => b.toNat + 2 * packBits rest

/-- `ROWV[4:0]` (R99). -/
def rowv (row : RowSet) : Nat := packBits row.toList

/-- `COLV[11:0]` (R99). -/
def colv (col : ColSet) : Nat := packBits col.toList

/-- `PV[59:0]`: bit `12 * tr + tc` is cell `(tr, tc)` (R99). -/
def pv (cells : CellVec) : Nat := packBits (cells.toList.flatMap Vector.toList)

/-- `count(v)`: how many bits of a bit sequence are 1 (R11). -/
def countBits (bs : List Bool) : Nat := bs.count true

/-- `count(P)` (R152). -/
def countCells (cells : CellVec) : Nat := countBits (cells.toList.flatMap Vector.toList)

end Sys2Proof.Machine
end

