-- ==== Sys2Proof/Machine/KeyDecoder.lean ====
section
/-!
DEFINITION. The Key Decoder: `DEC` (42_key_decoder.md).
-/

namespace Sys2Proof.Machine

/-- `P[tr][tc] = ROW[4 - tr] & COL[11 - tc]` for all 60 cells (R150). -/
def decodeCells (row : RowSet) (col : ColSet) : CellVec :=
  Vector.ofFn fun tr => Vector.ofFn fun tc => row[revRow tr] && col[revCol tc]

/-- The active pairs `(r, c)`, `r` ascending and, within one `r`, `c` ascending (R155, R190). -/
def activePairs (row : RowSet) (col : ColSet) : List (Fin 5 × Fin 12) :=
  (List.finRange 5).flatMap fun r =>
    ((List.finRange 12).filter fun k => row[r] && col[k]).map fun k => (r, k)

/-- `PRESSED` as the list of R155: the symbols of the active pairs in the order of `activePairs`. -/
def pressedList (p : Params) (row : RowSet) (col : ColSet) : List Symbol :=
  (activePairs row col).map fun rc => keyAt p rc.1 rc.2

/-- `DEC` (R150): writes all 60 cells. -/
def execDec (s : State) : Host.Outcome State Fault Refusal :=
  .next { s with cells := decodeCells s.row s.col }.advance

end Sys2Proof.Machine
end

