-- ==== Sys2Proof/Machine/MatrixScanner.lean ====
section
/-!
DEFINITION. The Matrix Scanner's own micro-operation `RDD` (41_matrix_scanner.md).
Its schedule is the micro-program's (Machine/MicroProgram.lean).
-/

namespace Sys2Proof.Machine

/-- `RDD` (R140): one sample of the directly wired column line into `COL[0]`; `SELR` is neither read nor written. -/
def execRdd (s : State) : Host.Outcome State Fault Refusal :=
  .next { s.afterColRead with col := s.col.set 0 (activeCol0 s.params s.col0Level) }.advance

end Sys2Proof.Machine
end

