-- ==== Sys2Proof/Machine/MuxDriver.lean ====
section
/-!
DEFINITION. The Multiplexer Driver: `SEL`, `RDR`, `RDC` (40_mux_driver.md).
-/

namespace Sys2Proof.Machine

/-- `SEL a` (R130): `SELR <- a`, event `SelWrite(a)`, `UPC <- UPC + 1`. -/
def execSel (a : Arg) (s : State) : Host.Outcome State Fault Refusal :=
  .next ({ s with selr := a }.emit [.selWrite a]).advance

/-- `RDR r` (R131): one sample of the signal line into `ROW[r]`.
It reads whatever channel `SELR` holds; `r` in 5..15 is reserved (R93). -/
def execRdr (r : Arg) (s : State) : Host.Outcome State Fault Refusal :=
  if h : r.toNat < 5 then
    .next { s.afterMemRead with row := s.row.set r.toNat (activeSig s.params s.sigLevel) }.advance
  else .refused (.reservedOperand (.rdr r))

/-- `RDC k` (R132): one sample of the signal line into `COL[k]`.
`k = 0` and `k` in 12..15 are reserved (R93): column 0 is not behind the multiplexer. -/
def execRdc (k : Arg) (s : State) : Host.Outcome State Fault Refusal :=
  if h : 1 ≤ k.toNat ∧ k.toNat < 12 then
    .next { s.afterMemRead with col := s.col.set k.toNat (activeSig s.params s.sigLevel) }.advance
  else .refused (.reservedOperand (.rdc k))

end Sys2Proof.Machine
end

