-- ==== Sys2Proof/Machine/ReportFormatter.lean ====
section
/-!
DEFINITION. The Report Formatter: `FMT` (44_report_formatter.md) and the bytes of the report line (R102 to R104).
-/

namespace Sys2Proof.Machine

/-- The ASCII code of a decimal digit (R103). -/
def digit (i : Nat) : Byte := 0x30 + BitVec.ofNat 8 i

/-- `dec(i)` for `i` in 0..11: no leading zero, tens digit first (R104). -/
def decNumeral (i : Nat) : List Byte := if i < 10 then [digit i] else [digit (i / 10), digit (i % 10)]

/-- The indices whose bit is 1, ascending (R183). -/
def activeIndices {n : Nat} (bits : Vector Bool n) : List Nat :=
  ((List.finRange n).filter fun i => bits[i]).map Fin.val

/-- One index list of the line.
With `REPORT_TRAILING_SPACE` each index is followed by a space (R181), without it the indices are joined by single spaces (R186). -/
def indexList (trailing : Bool) (is : List Nat) : List Byte :=
  if trailing then is.flatMap fun i => decNumeral i ++ [0x20]
  else ((is.map decNumeral).intersperse [0x20]).flatten

/-- The literal `"R: "` (R102, R103). -/
def rowLabel : List Byte := [0x52, 0x3A, 0x20]

/-- The literal `", C: "` (R102, R103). -/
def colLabel : List Byte := [0x2C, 0x20, 0x43, 0x3A, 0x20]

/-- The function `format` (R181), in the reading `REPORT_TRAILING_SPACE` selects (R186). -/
def format (trailing : Bool) (row : RowSet) (col : ColSet) : List Byte :=
  rowLabel ++ indexList trailing (activeIndices row) ++ colLabel ++ indexList trailing (activeIndices col)

/-- `FMT` (R180): builds the whole of `RPT` from `ROW` and `COL`, in every cycle. -/
def execFmt (s : State) : Host.Outcome State Fault Refusal :=
  .next { s with rpt := format s.params.trailingSpace s.row s.col }.advance

end Sys2Proof.Machine
end

