-- ==== Sys2Proof/Machine/Sinks.lean ====
section
/-!
DEFINITION. The sink outputs and the start-up: `DISP`, `TX`, `END`, `BOOT`, `SPLASH` (45_sinks_and_sequencing.md).
-/

namespace Sys2Proof.Machine

/-- One key line per active pair, whether or not debugging is on (R190). -/
def keyLines (p : Params) (row : RowSet) (col : ColSet) : List Event :=
  (pressedList p row col).map fun sym => .disp (.keyLine sym)

/-- The cycle's frame: clear, the debug text if debugging, the key lines (R190). -/
def frame (p : Params) (dbg : Bool) (rpt : List Byte) (row : RowSet) (col : ColSet) : List Event :=
  [.disp .clear] ++ (if dbg then [.disp (.debugText rpt)] else []) ++ keyLines p row col

/-- `DISP` (R190). -/
def execDisp (s : State) : Host.Outcome State Fault Refusal :=
  .next (s.emit (frame s.params s.dbg s.rpt s.row s.col)).advance

/-- The transmit events of a cycle: one line while streaming, nothing otherwise (R191, R198). -/
def txEvents (p : Params) (strm : Bool) (rpt : List Byte) : List Event :=
  if strm then [.tx (rpt ++ p.newline)] else []

/-- `TX` (R191): never waits and never fails. -/
def execTx (s : State) : Host.Outcome State Fault Refusal :=
  .next (s.emit (txEvents s.params s.strm s.rpt)).advance

/-- `END` (R192): `PREVCAPS <- F_CAPS`, `UPC <- 2`. -/
def execEndCycle (s : State) : Host.Outcome State Fault Refusal :=
  .next { s with prevCaps := s.flags.caps, upc := cycleStart }

/-- `BOOT` (R193): takes the display's answer; a failure is the one exception, which halts for good. -/
def execBoot (s : State) : Host.Outcome State Fault Refusal :=
  .next (if s.dispOk then s.afterDispOk.advance else s.afterDispOk.raise .displayInitFailure)

/-- `SPLASH` (R194): shows "Ready", then pauses. -/
def execSplash (s : State) : Host.Outcome State Fault Refusal :=
  .next (s.emit [.disp (.splash "Ready"), .pause .splash]).advance

end Sys2Proof.Machine
end

