-- ==== Sys2Proof/Machine/Flags.lean ====
section
/-!
DEFINITION. The presence flags (R26, R160) and the three signals derived from them (R34).
-/

namespace Sys2Proof.Machine

/-- `OR{ P[tr][tc] : KeyRead(tr, tc) == x }` over all 60 cells (R155, R160); symbols compare by exact equality (R100). -/
def present (p : Params) (cells : CellVec) (x : Symbol) : Bool :=
  (List.finRange 5).any fun tr => (List.finRange 12).any fun tc => cells[tr][tc] && keyRead p tr tc == x

/-- The five presence flags of a pressed-cell vector (R160). -/
def presenceFlags (p : Params) (cells : CellVec) : Flags where
  caps := present p cells .caps
  fn := present p cells .fn
  alt := present p cells .alt
  d := present p cells .d
  n := present p cells .n

/-- `EDGE = F_CAPS & ~PREVCAPS` (R34). -/
def edge (f : Flags) (prevCaps : Bool) : Bool := f.caps && !prevCaps

/-- `CH_DBG = F_FN & F_ALT & F_D` (R34). -/
def chDbg (f : Flags) : Bool := f.fn && f.alt && f.d

/-- `CH_STRM = F_FN & F_ALT & F_N` (R34). -/
def chStrm (f : Flags) : Bool := f.fn && f.alt && f.n

end Sys2Proof.Machine
end

