-- ==== Sys2Proof/Machine/ToggleEngine.lean ====
section
/-!
DEFINITION. The Toggle & Command Engine: `FLG`, `CAPT`, `CMD 0`, `CMD 1` (43_toggle_command_engine.md).
-/

namespace Sys2Proof.Machine

/-- `FLG` (R160): writes all five presence flags. -/
def execFlg (s : State) : Host.Outcome State Fault Refusal :=
  .next { s with flags := presenceFlags s.params s.cells }.advance

/-- The caps toggle: `CAPS <- ~CAPS`, the line driven with the new value, event `CapsOut` (R161, R101). -/
def State.toggleCaps (s : State) : State :=
  { s with caps := !s.caps, capsOut := bitLevel (!s.caps), trace := s.trace ++ [.capsOut (bitLevel (!s.caps))] }

/-- `CAPT` (R161): toggles on the rising edge, otherwise writes neither `CAPS` nor the line. -/
def execCapt (s : State) : Host.Outcome State Fault Refusal :=
  .next (if edge s.flags s.prevCaps then s.toggleCaps else s).advance

/-- A fired chord's confirmation of the new value and its pause (R162, R163, R170). -/
def State.confirm (which : ModeFlag) (v : Bool) (s : State) : State :=
  s.emit [.disp (.confirm which v), .pause .confirm]

/-- `CMD 0` (R162): the debug chord complements `DBG`; no edge detection (R165). -/
def execCmd0 (s : State) : Host.Outcome State Fault Refusal :=
  .next (if chDbg s.flags then { s with dbg := !s.dbg }.confirm .dbgMode (!s.dbg) else s).advance

/-- `CMD 1` (R163): the stream chord complements `STRM`; no edge detection (R165). -/
def execCmd1 (s : State) : Host.Outcome State Fault Refusal :=
  .next (if chStrm s.flags then { s with strm := !s.strm }.confirm .stream (!s.strm) else s).advance

end Sys2Proof.Machine
end

