-- ==== Sys2Proof/Machine/Dispatch.lean ====
section
/-!
DEFINITION. One arm per micro-operation (R92), each a direct call of its meaning.
-/

namespace Sys2Proof.Machine

def exec (i : Instr) (s : State) : Host.Outcome State Fault Refusal :=
  match i with
  | .sel a => Sys2Proof.Machine.execSel a s
  | .rdr r => Sys2Proof.Machine.execRdr r s
  | .rdc k => Sys2Proof.Machine.execRdc k s
  | .rdd => Sys2Proof.Machine.execRdd s
  | .dec => Sys2Proof.Machine.execDec s
  | .flg => Sys2Proof.Machine.execFlg s
  | .capt => Sys2Proof.Machine.execCapt s
  | .cmd0 => Sys2Proof.Machine.execCmd0 s
  | .cmd1 => Sys2Proof.Machine.execCmd1 s
  | .fmt => Sys2Proof.Machine.execFmt s
  | .disp => Sys2Proof.Machine.execDisp s
  | .tx => Sys2Proof.Machine.execTx s
  | .endCycle => Sys2Proof.Machine.execEndCycle s
  | .boot => Sys2Proof.Machine.execBoot s
  | .splash => Sys2Proof.Machine.execSplash s

end Sys2Proof.Machine
end

