-- ==== Sys2Proof/Machine/Sequencer.lean ====
section
/-!
DEFINITION. The sequencer's fetch (R195): what `step` runs next, or why it runs nothing.
-/

namespace Sys2Proof.Machine

/-- Fetch at `UPC` and decode (R112, R195).
While `HALT == 1` there is no step (R41, R216); a reserved address or word has no meaning and is refused (R107, D29). -/
def fetch (s : State) : Host.Outcome Instr Fault Refusal :=
  if s.halt then .fault (.halted s.cause)
  else
    match s.readWord s.upc.toNat with
    | none => .refused (.reservedAddress s.upc)
    | some w =>
      match decode w with
      | .ok i => .next i
      | .error why => .refused (.reservedWord w why)

end Sys2Proof.Machine
end

