-- ==== Sys2Proof/Machine/Step.lean ====
section
/-!
DEFINITION. One step of the machine (R195), and the placing of one word where the next step fetches.
-/

namespace Sys2Proof.Machine

/-- One step: fetch, decode, execute; the executed rule writes `UPC` (R195). -/
def step (s : State) : Host.Outcome State Fault Refusal :=
  match fetch s with
  | .next i => exec i s
  | .fault why => .fault why
  | .refused why => .refused why

/-- `s` with a table row's word at the micro-program address it fetches next, for every `UPC` in 0..43 (log entry 4).
The `UPC` values 44..63 are reserved and take no word (R107). -/
def State.withFetchWord (s : State) (nbits w : Nat) : State := s.placeWord (tableWord nbits w)

end Sys2Proof.Machine
end

