-- ==== Sys2Proof/Machine/Cycle.lean ====
section
/-!
DEFINITION. The cycle as one function (R203) with its trace (R201).
The micro-operation rules are the definition of the machine; this function is what R204 says they compute.
-/

namespace Sys2Proof.Machine

/-- The persistent state a cycle hands to the next (R31, R203). -/
structure Persistent where
  /-- `CAPS`. -/
  caps : Bool
  /-- `PREVCAPS`. -/
  prevCaps : Bool
  /-- `DBG`. -/
  dbg : Bool
  /-- `STRM`. -/
  strm : Bool
deriving DecidableEq, Repr

/-- What one cycle computes (R203): the per-cycle registers, the new persistent state, and the trace's growth. -/
structure CycleOut where
  /-- `ROW`. -/
  row : RowSet
  /-- `COL`. -/
  col : ColSet
  /-- `P`. -/
  cells : CellVec
  /-- The presence flags. -/
  flags : Flags
  /-- `RPT`. -/
  rpt : List Byte
  /-- `EDGE`: whether the caps latch toggled. -/
  edge : Bool
  /-- `S'`. -/
  next : Persistent
  /-- The cycle's events, in order (R201). -/
  events : List Event
deriving DecidableEq, Repr

/-- `ROW[r] = s[r]` (R203). -/
def samplesRow (s : Vector Bool 17) : RowSet := Vector.ofFn fun r => s[r.val]

/-- `COL[c] = s[5 + c]` (R203). -/
def samplesCol (s : Vector Bool 17) : ColSet := Vector.ofFn fun k => s[5 + k.val]

/-- The 33 scan events (R144, R201). -/
def scanEvents (p : Params) (s : Vector Bool 17) : List Event :=
  ((List.finRange 5).flatMap fun r =>
    [.selWrite p.rowCh[r], .sampleSig p.rowCh[r] (levelFor p.activeSig s[r.val])]) ++
  [.sampleCol0 (levelFor p.activeCol0 s[5])] ++
  ((List.finRange 11).flatMap fun j =>
    [.selWrite p.colCh[j], .sampleSig p.colCh[j] (levelFor p.activeSig s[6 + j.val])])

/-- The events of the engine (R201): the caps line, then the debug chord, then the stream chord. -/
def engineEvents (f : Flags) (old new : Persistent) : List Event :=
  (if edge f old.prevCaps then [.capsOut (bitLevel new.caps)] else []) ++
  (if chDbg f then [.disp (.confirm .dbgMode new.dbg), .pause .confirm] else []) ++
  (if chStrm f then [.disp (.confirm .stream new.strm), .pause .confirm] else [])

/-- The persistent state after a cycle whose flags are `f` (R203). -/
def Persistent.after (S : Persistent) (f : Flags) : Persistent where
  caps := S.caps ^^ edge f S.prevCaps
  prevCaps := f.caps
  dbg := S.dbg ^^ chDbg f
  strm := S.strm ^^ chStrm f

/-- The cycle as one function of the prior persistent state and the 17 samples (R203). -/
def cycle (p : Params) (S : Persistent) (s : Vector Bool 17) : CycleOut :=
  let row := samplesRow s
  let col := samplesCol s
  let cells := decodeCells row col
  let flags := presenceFlags p cells
  let new := S.after flags
  let rpt := format p.trailingSpace row col
  { row, col, cells, flags, rpt, edge := edge flags S.prevCaps, next := new
    events := scanEvents p s ++ engineEvents flags S new ++ frame p new.dbg rpt row col ++ txEvents p new.strm rpt }

/-- The answer the `k`-th read from now gets, when it is a read of `line`. -/
def State.answerAt (s : State) (k : Nat) (line : InputLine) : Bool :=
  match s.script[k]? with
  | some b => b
  | none => Config.freeInput (s.draws + (k - s.script.length)) line

/-- Which line the `k`-th of a cycle's 17 samples reads (R141, R144). -/
def sampleLine (p : Params) (k : Fin 17) : InputLine :=
  if h : k.val < 5 then .sig p.rowCh[k.val] else if k.val = 5 then .col0 else .sig p.colCh[k.val - 6]

/-- The 17 samples the coming cycle takes (R144). -/
def State.cycleSamples (s : State) : Vector Bool 17 := Vector.ofFn fun k => s.answerAt k.val (sampleLine s.params k)

/-- The persistent state of a state (R31). -/
def State.persistent (s : State) : Persistent where
  caps := s.caps
  prevCaps := s.prevCaps
  dbg := s.dbg
  strm := s.strm

/-- The state after one whole cycle from `UPC = 2`, by the cycle function (R203, R204). -/
def State.afterCycle (s : State) : State :=
  let out := cycle s.params s.persistent s.cycleSamples
  { s with
    script := s.script.drop 17
    draws := s.draws + (17 - s.script.length)
    row := out.row
    col := out.col
    cells := out.cells
    flags := out.flags
    rpt := out.rpt
    dbg := out.next.dbg
    strm := out.next.strm
    caps := out.next.caps
    prevCaps := out.next.prevCaps
    selr := s.params.colCh[10]
    capsOut := if out.edge then bitLevel out.next.caps else s.capsOut
    trace := s.trace ++ out.events
    upc := cycleStart }

end Sys2Proof.Machine
end

