-- ==== Sys2Proof/Safety.lean ====
section
/-!
DEFINITION. What a safe run of LKCORE is, in the terms the statements use: the machine with its own micro-program,
the invariants of its states, and runs of several steps.
-/

namespace Sys2Proof.Machine

/-- `s` goes to `t` in `n` steps, none of them a fault or a refusal. -/
def Runs (n : Nat) (s t : State) : Prop := Host.Core.run Sys2Proof.core n s = .next t

/-- The micro-program is the constant of R94: no cell differs from it (R64, R78). -/
def State.Intact (s : State) : Prop := s.ustore = []

/-- The machine is running its own micro-program and stands before the first select of a cycle (R192). -/
def State.AtCycleStart (s : State) : Prop := s.halt = false ∧ s.Intact ∧ s.upc = cycleStart

/-- The state `m` cycles on, by the cycle function (R203). -/
def State.afterCycles (m : Nat) (s : State) : State := Nat.iterate State.afterCycle m s

/-- The sequencer's part of the state is legal: the micro-program is intact, `UPC` is in 0..43 (R40), a running machine
has cause 0 and a halted one has cause 1 and stands at address 0 (R41, R106, R215). -/
def State.SequencerLegal (s : State) : Prop :=
  s.Intact ∧ s.upc.toNat ≤ 43 ∧ (s.halt = false → s.cause = 0) ∧ (s.halt = true → s.cause = 1 ∧ s.upc = 0)

/-- The caps line shows the caps latch (R171). -/
def State.CapsShown (s : State) : Prop := s.capsOut = .high ↔ s.caps = true

/-- The report buffer has a length of R24: 8 to 44 bytes, or 8 to 42 without the trailing spaces. -/
def State.ReportSized (s : State) : Prop :=
  8 ≤ s.rpt.length ∧ s.rpt.length ≤ (if s.params.trailingSpace then 44 else 42)

/-- Before every read of the signal line the selection lines hold the channel of the register it loads (R77, R131). -/
def State.ReadsItsChannel (s : State) : Prop :=
  (∀ r : Fin 5, microOp s.params s.upc.toNat = some (.rdr (BitVec.ofNat 4 r.val)) → s.selr = s.params.rowCh[r]) ∧
  (∀ j : Fin 11, microOp s.params s.upc.toNat = some (.rdc (BitVec.ofNat 4 (j.val + 1))) → s.selr = s.params.colCh[j])

/-- Every per-cycle register that a micro-operation still to come in this cycle reads has been computed in this cycle from
its sources (R25): `P` once `DEC` has run, the flags once `FLG` has, `RPT` once `FMT` has. -/
def State.CycleComputed (s : State) : Prop :=
  (36 ≤ s.upc.toNat → s.upc.toNat ≤ 43 → s.cells = decodeCells s.row s.col) ∧
  (37 ≤ s.upc.toNat → s.upc.toNat ≤ 43 → s.flags = presenceFlags s.params s.cells) ∧
  (41 ≤ s.upc.toNat → s.upc.toNat ≤ 43 → s.rpt = format s.params.trailingSpace s.row s.col)

/-- Symbol `x` is present in the Pressed Key Set: some pressed cell holds it (R155). -/
def SymbolPressed (p : Params) (cells : CellVec) (x : Symbol) : Prop :=
  ∃ (tr : Fin 5) (tc : Fin 12), cells[tr][tc] = true ∧ p.keyMap[tr][tc] = x

/-- A `CapsOut` event. -/
def isCapsOut : Event → Bool
  | .capsOut _ => true
  | _ => false

/-- A confirmation of a mode flag. -/
def isConfirm (which : ModeFlag) : Event → Bool
  | .disp (.confirm w _) => w = which
  | _ => false

/-- A confirmation pause. -/
def isConfirmPause : Event → Bool
  | .pause .confirm => true
  | _ => false

/-- A debug text. -/
def isDebugText : Event → Bool
  | .disp (.debugText _) => true
  | _ => false

/-- A key line. -/
def isKeyLine : Event → Bool
  | .disp (.keyLine _) => true
  | _ => false

/-- A splash. -/
def isSplash : Event → Bool
  | .disp (.splash _) => true
  | _ => false

/-- Two states hand the same things to the coming cycle: everything but the per-cycle registers and `SELR` (R25, R31). -/
def State.SameCarry (s t : State) : Prop :=
  s.params = t.params ∧ s.ustore = t.ustore ∧ s.script = t.script ∧ s.draws = t.draws ∧
  s.dbg = t.dbg ∧ s.strm = t.strm ∧ s.caps = t.caps ∧ s.prevCaps = t.prevCaps ∧ s.capsOut = t.capsOut ∧
  s.trace = t.trace ∧ s.upc = t.upc ∧ s.halt = t.halt ∧ s.cause = t.cause

end Sys2Proof.Machine
end

