-- ==== Sys2Proof/Certificates/Slice0/Obligations.lean ====
section
/-!
DEFINITION. The statements about LKCORE, one `def Obligations.<Name> : Prop` each.
Every statement is about every state, and so about every parameter choice, unless a premise says otherwise.
A state's input script is arbitrary, so a statement about a read holds whatever the line answers (R66).
-/

open Sys2Proof Sys2Proof.Machine

/-! ## Encoding -/

/-- Decoding the word of a legal micro-operation gives it back, with every operand at every legal value (30_encoding.md
section 2; the encoding is the spec's own decision D2). -/
def Obligations.DecodeOfEncodeIsTheInstruction : Prop :=
  ∀ i : Instr, i.WellFormed → decode (encode i) = .ok i

/-- A word that decodes is the word of a legal micro-operation: no two words mean the same (decision D2). -/
def Obligations.DecodedWordIsLegalAndEncodesBack : Prop :=
  ∀ (w : Word) (i : Instr), decode w = .ok i → i.WellFormed ∧ encode i = w

/-- Which words are legal (30_encoding.md, "Decoding a word"): `op` in 0..13 and `arg` in its `op`'s range; 44 words are
legal and 212 are reserved. -/
def Obligations.LegalWordsAreExactlyThe44 : Prop :=
  (∀ w : Word, (∃ i, decode w = .ok i) ↔
    opField w = 0x0 ∨ (opField w = 0x1 ∧ (argField w).toNat ≤ 4) ∨
    (opField w = 0x2 ∧ 1 ≤ (argField w).toNat ∧ (argField w).toNat ≤ 11) ∨
    (opField w = 0x7 ∧ (argField w).toNat ≤ 1) ∨
    (opField w ∈ [0x3, 0x4, 0x5, 0x6, 0x8, 0x9, 0xA, 0xB, 0xC, 0xD] ∧ (argField w).toNat = 0)) ∧
  ((List.range 256).filter fun n => (decode (BitVec.ofNat 8 n)).toOption.isSome).length = 44 ∧
  ((List.range 256).filter fun n => (decode (BitVec.ofNat 8 n)).toOption.isNone).length = 212

/-- Words written out from the opcode map of 30_encoding.md decode to their micro-operations, and reserved words do not. -/
def Obligations.WordsWrittenFromTheMapDecode : Prop :=
  decode 0b00001011 = .ok (.sel 11) ∧ decode 0b00010100 = .ok (.rdr 4) ∧ decode 0b00101011 = .ok (.rdc 11) ∧
  decode 0b00110000 = .ok .rdd ∧ decode 0b01000000 = .ok .dec ∧ decode 0b01010000 = .ok .flg ∧
  decode 0b01100000 = .ok .capt ∧ decode 0b01110000 = .ok .cmd0 ∧ decode 0b01110001 = .ok .cmd1 ∧
  decode 0b10000000 = .ok .fmt ∧ decode 0b10010000 = .ok .disp ∧ decode 0b10100000 = .ok .tx ∧
  decode 0b10110000 = .ok .endCycle ∧ decode 0b11000000 = .ok .boot ∧ decode 0b11010000 = .ok .splash ∧
  decode 0b00010101 = .error .operand ∧ decode 0b00100000 = .error .operand ∧ decode 0b01110010 = .error .operand ∧
  decode 0b11100000 = .error .opCode ∧ decode 0b11111111 = .error .opCode

/-! ## Sequencing -/

/-- When the word at `UPC` decodes to a micro-operation, one step of a running machine is the execution of its rule and
nothing else: the rule itself writes `UPC` (45_sinks_and_sequencing.md, sequencing; decision D2). -/
def Obligations.StepRunsTheDecodedInstruction : Prop :=
  ∀ (s : State) (w : Word) (i : Instr), s.halt = false → s.readWord s.upc.toNat = some w → decode w = .ok i →
    step s = exec i s

/-- A reserved word and a reserved `UPC` value have no meaning: the step refuses, by name, whatever the micro-program space
lists. The reserved `UPC` values are 44..63, the addresses that hold no word. The micro-program holds a legal
micro-operation at each of 0..43, so an intact machine meets no reserved word there (30_encoding.md section 4; the refusal
is decision D29, log entry 10). -/
def Obligations.ReservedWordsAndAddressesAreRefused : Prop :=
  (∀ s : State, s.halt = false → 44 ≤ s.upc.toNat → step s = .refused (.reservedAddress s.upc)) ∧
  (∀ (s : State) (w : Word) (why : Reserved), s.halt = false → s.readWord s.upc.toNat = some w →
    decode w = .error why → step s = .refused (.reservedWord w why)) ∧
  (∀ (s : State) (a : Nat), s.readWord a = none ↔ 44 ≤ a) ∧
  (∀ (p : Params) (a : Nat), a ≤ 43 → ∃ i, microOp p a = some i ∧ i.WellFormed ∧ decode (encode i) = .ok i)

/-- The micro-program is `STARTUP` followed by `CYCLE` (30_encoding.md sections 2 and 5). -/
def Obligations.MicroProgramIsStartupThenCycle : Prop :=
  ∀ (p : Params) (a : Nat), microOp p a = (startupOps ++ cycleOps p)[a]?

/-- A running machine with its own micro-program executes the micro-operation of the table at `UPC`, from every address
0..43 (30_encoding.md section 2, 45_sinks_and_sequencing.md; decision D2). -/
def Obligations.IntactMachineRunsTheMicroProgram : Prop :=
  ∀ s : State, s.Intact → s.halt = false → s.upc.toNat ≤ 43 →
    ∃ i, microOp s.params s.upc.toNat = some i ∧ step s = exec i s

/-- Every legal micro-operation answers a next state from every state, and an operand outside its legal range is refused
by name (30_encoding.md section 4; the refusal is decision D29, log entry 10).
`BOOT` is included: where the display fails it raises `DisplayInitFailure`, and that a failing `BOOT` is a next state with
`HALT` set, and not a stop, is decision D23, log entry 11 (60_exceptions.md section 4). -/
def Obligations.LegalInstructionsComplete : Prop :=
  ∀ (i : Instr) (s : State),
    (i.WellFormed → ∃ t, exec i s = .next t) ∧ (¬ i.WellFormed → exec i s = .refused (.reservedOperand i))

/-- The only writes to `UPC`: `END` writes 2, a failing `BOOT` writes nothing, every other micro-operation adds 1
(45_sinks_and_sequencing.md, sequencing; `UPC` is decision D2, the failing `BOOT` decision D23, log entry 11; `UPC + 1`
is taken in the 6-bit register, log entry 7). -/
def Obligations.UpcIsWrittenByItsThreeRulesOnly : Prop :=
  ∀ (i : Instr) (s t : State), exec i s = .next t →
    t.upc = if i = .endCycle then 2 else if i = .boot ∧ s.dispOk = false then s.upc else s.upc + 1

/-! ## One micro-operation each -/

/-- `SEL a`, for every `a` in 0..15, at every state: `SELR <- a`, line `SELi` is `HIGH` exactly when bit `i` of `a` is 1,
event `SelWrite(a)`, nothing sampled and nothing else changed; and `SELR` persists until the next `SEL` (40_mux_driver.md,
`SEL`, whose sentence on the persistence the spec marks as derived; the level of a 1 bit is decision D6, the word's
encoding decision D2). -/
def Obligations.SelWritesTheSelectionRegister : Prop :=
  (∀ (a : Arg) (s : State),
    (encode (.sel a)).toNat = 0x00 + a.toNat ∧
    exec (.sel a) s = .next { s with selr := a, trace := s.trace ++ [.selWrite a], upc := s.upc + 1 } ∧
    ∀ i : Fin 4, State.selLine { s with selr := a } i = .high ↔ a.getLsbD i.val = true) ∧
  (∀ (i : Instr) (s t : State), (∀ a, i ≠ .sel a) → exec i s = .next t → t.selr = s.selr)

/-- Line `SELi` carries bit `i` of the selected address, `HIGH` for 1 (30_encoding.md section 3; the level is decision D6). -/
def Obligations.SelectionLinesCarryTheAddress : Prop :=
  ∀ (a : Arg) (s t : State), exec (.sel a) s = .next t →
    (∀ i : Fin 4, t.selLine i = .high ↔ a.toNat / 2 ^ i.val % 2 = 1) ∧
    (∀ i : Fin 4, t.selLine i = .low ↔ a.toNat / 2 ^ i.val % 2 = 0)

/-- `RDR r` takes one sample of the signal line into `ROW[r]`, for `r` in 0..4, whatever channel is selected; the other
rows keep their values (40_mux_driver.md). Which answer the sample gets is an input: it is the script's next entry, and
every level can come (free input, log entry 2; polarity, decision D5, log entry 14).
The operands 5..15 are reserved (30_encoding.md section 4) and refused (decision D29, log entry 10). -/
def Obligations.RdrSamplesTheSignalLineIntoItsRow : Prop :=
  (∀ (r : Arg) (s : State) (h : r.toNat < 5),
    (encode (.rdr r)).toNat = 0x10 + r.toNat ∧
    exec (.rdr r) s = .next { s with
      script := s.script.tail, draws := if s.script.isEmpty then s.draws + 1 else s.draws
      row := s.row.set r.toNat (s.sigLevel == s.params.activeSig) h
      trace := s.trace ++ [.sampleSig s.selr s.sigLevel], upc := s.upc + 1 }) ∧
  (∀ (s : State) (l : Level), ∃ b, State.sigLevel { s with script := b :: s.script } = l) ∧
  (∀ (r : Arg) (s : State), 5 ≤ r.toNat → exec (.rdr r) s = .refused (.reservedOperand (.rdr r)))

/-- `RDC k` takes one sample of the signal line into `COL[k]`, for `k` in 1..11 (40_mux_driver.md; as for `RDR`: free
input, log entry 2; polarity, decision D5, log entry 14).
The operands 0 and 12..15 are reserved (30_encoding.md section 4) and refused (decision D29, log entry 10). -/
def Obligations.RdcSamplesTheSignalLineIntoItsColumn : Prop :=
  (∀ (k : Arg) (s : State) (h : k.toNat < 12), 1 ≤ k.toNat →
    (encode (.rdc k)).toNat = 0x20 + k.toNat ∧
    exec (.rdc k) s = .next { s with
      script := s.script.tail, draws := if s.script.isEmpty then s.draws + 1 else s.draws
      col := s.col.set k.toNat (s.sigLevel == s.params.activeSig) h
      trace := s.trace ++ [.sampleSig s.selr s.sigLevel], upc := s.upc + 1 }) ∧
  (∀ (k : Arg) (s : State), k.toNat = 0 ∨ 12 ≤ k.toNat → exec (.rdc k) s = .refused (.reservedOperand (.rdc k)))

/-- `RDD` takes one sample of the directly wired column line into `COL[0]`; `SELR` has no part in it (41_matrix_scanner.md;
the line's own polarity is decision D5, the answer a free input, log entry 2). -/
def Obligations.RddSamplesTheDirectColumn : Prop :=
  encode .rdd = 0x30 ∧
  (∀ s : State, exec .rdd s = .next { s with
    script := s.script.tail, draws := if s.script.isEmpty then s.draws + 1 else s.draws
    col := s.col.set 0 (s.col0Level == s.params.activeCol0)
    trace := s.trace ++ [.sampleCol0 s.col0Level], upc := s.upc + 1 }) ∧
  (∀ (s : State) (l : Level), ∃ b, State.col0Level { s with script := b :: s.script } = l) ∧
  (∀ (s : State) (a : ChanAddr), State.col0Level { s with selr := a } = s.col0Level)

/-- R150: `DEC` presses a cell exactly when its row bit and its column bit are both 1, and changes nothing else. -/
def Obligations.DecPressesExactlyTheActivePairs : Prop :=
  encode .dec = 0x40 ∧ ∀ s : State, ∃ t, exec .dec s = .next t ∧ t = { s with cells := t.cells, upc := s.upc + 1 } ∧
    (∀ (tr : Fin 5) (tc : Fin 12), t.cells[tr][tc] = (s.row[4 - tr.val] && s.col[11 - tc.val])) ∧
    (∀ (r : Fin 5) (k : Fin 12),
      t.cells[4 - r.val][11 - k.val] = true ↔ s.row[r] = true ∧ s.col[k] = true)

/-- R160: `FLG` sets each presence flag exactly when some pressed cell holds its symbol, and changes nothing else. -/
def Obligations.FlgSetsTheFlagsOfPressedSymbols : Prop :=
  encode .flg = 0x50 ∧ ∀ s : State, ∃ t, exec .flg s = .next t ∧ t = { s with flags := t.flags, upc := s.upc + 1 } ∧
    (t.flags.caps = true ↔ SymbolPressed s.params s.cells .caps) ∧
    (t.flags.fn = true ↔ SymbolPressed s.params s.cells .fn) ∧
    (t.flags.alt = true ↔ SymbolPressed s.params s.cells .alt) ∧
    (t.flags.d = true ↔ SymbolPressed s.params s.cells .d) ∧
    (t.flags.n = true ↔ SymbolPressed s.params s.cells .n)

/-- R161: `CAPT` complements the latch and drives the line with the new state exactly on the rising edge; otherwise
neither is written. `PREVCAPS` is not written. -/
def Obligations.CaptTogglesOnTheRisingEdgeOnly : Prop :=
  encode .capt = 0x60 ∧ ∀ s : State,
    (s.flags.caps = true ∧ s.prevCaps = false → exec .capt s = .next { s with
      caps := !s.caps, capsOut := if s.caps then .low else .high
      trace := s.trace ++ [.capsOut (if s.caps then .low else .high)], upc := s.upc + 1 }) ∧
    (s.flags.caps = false ∨ s.prevCaps = true → exec .capt s = .next { s with upc := s.upc + 1 })

/-- `CMD 0` complements `DBG`, confirms the new value and pauses exactly when `"fn"`, `"alt"` and `"d"` are all present,
whatever else is (43_toggle_command_engine.md; the token and its place in the cycle are decisions D20 and D11,
log entries 16 and 17). -/
def Obligations.CmdZeroTogglesDebugOnItsChord : Prop :=
  encode .cmd0 = 0x70 ∧ ∀ s : State,
    (s.flags.fn = true ∧ s.flags.alt = true ∧ s.flags.d = true → exec .cmd0 s = .next { s with
      dbg := !s.dbg, trace := s.trace ++ [.disp (.confirm .dbgMode (!s.dbg)), .pause .confirm], upc := s.upc + 1 }) ∧
    (¬ (s.flags.fn = true ∧ s.flags.alt = true ∧ s.flags.d = true) →
      exec .cmd0 s = .next { s with upc := s.upc + 1 })

/-- `CMD 1` complements `STRM`, confirms the new value and pauses exactly when `"fn"`, `"alt"` and `"n"` are all present,
whatever else is (43_toggle_command_engine.md; the token and its place in the cycle are decisions D20 and D11,
log entries 16 and 17). -/
def Obligations.CmdOneTogglesStreamingOnItsChord : Prop :=
  encode .cmd1 = 0x71 ∧ ∀ s : State,
    (s.flags.fn = true ∧ s.flags.alt = true ∧ s.flags.n = true → exec .cmd1 s = .next { s with
      strm := !s.strm, trace := s.trace ++ [.disp (.confirm .stream (!s.strm)), .pause .confirm], upc := s.upc + 1 }) ∧
    (¬ (s.flags.fn = true ∧ s.flags.alt = true ∧ s.flags.n = true) →
      exec .cmd1 s = .next { s with upc := s.upc + 1 })

/-- With all four chord symbols present both chords fire, the debug chord first: two toggles, two confirmations, two
pauses (43_toggle_command_engine.md, both chords in one cycle; decision D12, log entry 16). -/
def Obligations.BothChordsFireInOneCycle : Prop :=
  ∀ s : State, s.flags.fn = true → s.flags.alt = true → s.flags.d = true → s.flags.n = true →
    ∃ t, exec .cmd0 s = .next t ∧ exec .cmd1 t = .next { s with
      dbg := !s.dbg, strm := !s.strm
      trace := s.trace ++ [.disp (.confirm .dbgMode (!s.dbg)), .pause .confirm,
        .disp (.confirm .stream (!s.strm)), .pause .confirm]
      upc := s.upc + 1 + 1 }

/-- `FMT` builds the whole report buffer from `ROW` and `COL` alone: label, row list, label, column list, in the reading
the parameter selects (44_report_formatter.md; the trailing space is decision D13, the bytes log entry 15). -/
def Obligations.FmtBuildsTheReportLine : Prop :=
  encode .fmt = 0x80 ∧
  (∀ s : State, exec .fmt s = .next { s with
    rpt := [0x52, 0x3A, 0x20] ++ indexList s.params.trailingSpace (activeIndices s.row) ++
      [0x2C, 0x20, 0x43, 0x3A, 0x20] ++ indexList s.params.trailingSpace (activeIndices s.col)
    upc := s.upc + 1 }) ∧
  (∀ is : List Nat, indexList true is = is.flatMap fun i => decNumeral i ++ [0x20]) ∧
  (∀ i j : Nat, ∀ is : List Nat, indexList false [] = [] ∧ indexList false [i] = decNumeral i ∧
    indexList false (i :: j :: is) = decNumeral i ++ [0x20] ++ indexList false (j :: is))

/-- `DISP` sends the cleared canvas, the debug text while debugging, and one key line per active pair, rows outer and
columns inner, both ascending (45_sinks_and_sequencing.md; the line order and the debug text's form are decisions D16
and D17, log entries 16 and 17). -/
def Obligations.DispSendsTheFrame : Prop :=
  encode .disp = 0x90 ∧
  (∀ s : State, exec .disp s = .next { s with
    trace := s.trace ++ [.disp .clear] ++ (if s.dbg then [.disp (.debugText s.rpt)] else []) ++
      (activePairs s.row s.col).map fun rc => .disp (.keyLine s.params.keyMap[4 - rc.1.val][11 - rc.2.val])
    upc := s.upc + 1 }) ∧
  (∀ (row : RowSet) (col : ColSet), (activePairs row col).Pairwise (fun x y => x.1 < y.1 ∨ (x.1 = y.1 ∧ x.2 < y.2)) ∧
    ∀ (r : Fin 5) (k : Fin 12), (r, k) ∈ activePairs row col ↔ row[r] = true ∧ col[k] = true)

/-- `TX` sends the report line and the newline as one event while streaming, and nothing otherwise; it never waits
(45_sinks_and_sequencing.md; that it never waits is decision D35, log entry 16). -/
def Obligations.TxSendsTheLineOnlyWhileStreaming : Prop :=
  encode .tx = 0xA0 ∧ ∀ s : State,
    (s.strm = true → exec .tx s = .next { s with
      trace := s.trace ++ [.tx (s.rpt ++ s.params.newline)], upc := s.upc + 1 }) ∧
    (s.strm = false → exec .tx s = .next { s with upc := s.upc + 1 })

/-- R192: `END` copies `F_CAPS` to `PREVCAPS`, unconditionally, clears nothing, and returns to the start of the cycle, where
`SEL ROWCH[0]` stands; `BOOT` and `SPLASH` stand at addresses 0 and 1 only, to which nothing returns. -/
def Obligations.EndClosesTheCycle : Prop :=
  encode .endCycle = 0xB0 ∧
  (∀ s : State, exec .endCycle s = .next { s with prevCaps := s.flags.caps, upc := 2 }) ∧
  (∀ p : Params, microOp p 2 = some (.sel p.rowCh[0])) ∧
  (∀ (p : Params) (a : Nat), (microOp p a = some .boot → a = 0) ∧ (microOp p a = some .splash → a = 1)) ∧
  (∀ s t : State, s.Intact → 2 ≤ s.upc.toNat → step s = .next t → 2 ≤ t.upc.toNat)

/-- `BOOT` samples the display's answer once; on success it goes on, on failure it takes the one exception: `HALT`, cause 1,
event `Halt(1)`, `UPC` unchanged (45_sinks_and_sequencing.md, 60_exceptions.md; the recording is decision D23,
log entry 11; the answer is a free input, log entry 2). -/
def Obligations.BootTakesTheDisplayAnswer : Prop :=
  encode .boot = 0xC0 ∧
  (∀ s : State, s.dispOk = true → exec .boot s = .next { s with
    script := s.script.tail, draws := if s.script.isEmpty then s.draws + 1 else s.draws
    trace := s.trace ++ [.dispInit true], upc := s.upc + 1 }) ∧
  (∀ s : State, s.dispOk = false → exec .boot s = .next { s with
    script := s.script.tail, draws := if s.script.isEmpty then s.draws + 1 else s.draws
    halt := true, cause := 1, trace := s.trace ++ [.dispInit false, .halt 1] }) ∧
  (∀ (s : State) (ok : Bool), State.dispOk { s with script := ok :: s.script } = ok)

/-- `SPLASH` shows "Ready" and pauses, as two events, and writes `UPC` alone (45_sinks_and_sequencing.md; that nothing
else is shown is decision D34, log entry 16, and its text log entry 17). -/
def Obligations.SplashShowsReadyAndPauses : Prop :=
  encode .splash = 0xD0 ∧ ∀ s : State, exec .splash s = .next { s with
    trace := s.trace ++ [.disp (.splash "Ready"), .pause .splash], upc := s.upc + 1 }

/-! ## Frames and whole-machine rules -/

/-- The write ports of 10_state.md section 9: a register not listed for a micro-operation is left unchanged by it, each
stream is written only by its writers, and every word of the micro-program space reads as before. -/
def Obligations.RegistersChangeOnlyThroughTheirWritePorts : Prop :=
  ∀ (i : Instr) (s t : State), exec i s = .next t →
    ((∀ a, i ≠ .sel a) → t.selr = s.selr) ∧
    (∀ r : Fin 5, i ≠ .rdr (BitVec.ofNat 4 r.val) → t.row[r] = s.row[r]) ∧
    (i ≠ .rdd → t.col[0] = s.col[0]) ∧
    (∀ k : Fin 12, 1 ≤ k.val → i ≠ .rdc (BitVec.ofNat 4 k.val) → t.col[k] = s.col[k]) ∧
    (i ≠ .dec → t.cells = s.cells) ∧
    (i ≠ .flg → t.flags = s.flags) ∧
    (i ≠ .capt → t.caps = s.caps ∧ t.capsOut = s.capsOut) ∧
    (i ≠ .cmd0 → t.dbg = s.dbg) ∧
    (i ≠ .cmd1 → t.strm = s.strm) ∧
    (i ≠ .fmt → t.rpt = s.rpt) ∧
    (i ≠ .endCycle → t.prevCaps = s.prevCaps) ∧
    (i ≠ .boot → t.halt = s.halt ∧ t.cause = s.cause) ∧
    (i ≠ .splash → i ≠ .cmd0 → i ≠ .cmd1 → i ≠ .disp → t.displayStream = s.displayStream) ∧
    (i ≠ .tx → t.txLines = s.txLines) ∧
    (i ≠ .rdd → i ≠ .boot → (∀ a, i ≠ .rdr a) → (∀ a, i ≠ .rdc a) → t.script = s.script ∧ t.draws = s.draws) ∧
    t.params = s.params ∧ (∀ a, t.readWord a = s.readWord a)

/-- R78: no step writes the micro-program or the key map, so a fetch never sees a store. -/
def Obligations.MicroProgramAndKeyMapAreNeverWritten : Prop :=
  ∀ s t : State, step s = .next t →
    (∀ a, t.readWord a = s.readWord a) ∧ t.params.keyMap = s.params.keyMap ∧ t.params = s.params ∧ t.ustore = s.ustore

/-- R172: only `CAPT`, `CMD 0`, `CMD 1` and `END` write the four persistent bits, one each, and each of them stands once in
a cycle, so no bit is written twice in one cycle. -/
def Obligations.PersistentBitsHaveOneWriterEach : Prop :=
  (∀ (i : Instr) (s t : State), exec i s = .next t →
    (i ≠ .capt → t.caps = s.caps) ∧ (i ≠ .endCycle → t.prevCaps = s.prevCaps) ∧
    (i ≠ .cmd0 → t.dbg = s.dbg) ∧ (i ≠ .cmd1 → t.strm = s.strm)) ∧
  (∀ p : Params, (cycleOps p).count .capt = 1 ∧ (cycleOps p).count .endCycle = 1 ∧
    (cycleOps p).count .cmd0 = 1 ∧ (cycleOps p).count .cmd1 = 1)

/-- A step halts the machine only by a `BOOT` whose display answer is failure; it records cause 1 and leaves `UPC`
(60_exceptions.md section 1 and section 4; the recording is decision D23, log entry 11). -/
def Obligations.OnlyAFailingBootHalts : Prop :=
  ∀ s t : State, step s = .next t →
    (t.halt = true ↔ fetch s = .next .boot ∧ s.dispOk = false) ∧
    (t.halt = true → t.cause = 1 ∧ t.upc = s.upc ∧ t.trace = s.trace ++ [.dispInit false, .halt 1])

/-- A halted machine has no step, so nothing samples, changes a register or appends an event, ever
(60_exceptions.md section 4; the outputs while halted are decision D31; that such a step is a fault is log
entry 11). -/
def Obligations.HaltedMachineHasNoStep : Prop :=
  ∀ s : State, s.halt = true → step s = .fault (.halted s.cause) ∧
    ∀ n : Nat, Host.Core.run Sys2Proof.core (n + 1) s = .fault (.halted s.cause)

/-- The trace is append-only: what was handed to a sink is never taken back (10_state.md section 5; the two
output streams are views of the trace, log entry 12). -/
def Obligations.TraceIsAppendOnly : Prop :=
  ∀ s t : State, step s = .next t →
    (∃ es, t.trace = s.trace ++ es) ∧ (∃ ds, t.displayStream = s.displayStream ++ ds) ∧
    (∃ bs, t.transmitStream = s.transmitStream ++ bs)

/-- R198: no micro-operation but `TX` writes the transmit stream, `TX` writes nothing while `STRM` is 0, and a cycle whose
`STRM` is 0 at `TX` sends zero bytes. -/
def Obligations.NothingIsTransmittedWhileStreamingIsOff : Prop :=
  (∀ (i : Instr) (s t : State), exec i s = .next t → i ≠ .tx ∨ s.strm = false → t.transmitStream = s.transmitStream) ∧
  (∀ s : State, s.AtCycleStart → ∃ t, Runs 42 s t ∧ (t.strm = false → t.transmitStream = s.transmitStream))

/-! ## Invariants that every step keeps -/

/-- The micro-program space keeps its canonical form (the model's own form, log entry 3). -/
def Obligations.StepKeepsTheMicroProgramSpaceCanonical : Prop :=
  ∀ s t : State, Memory.wf s.params s.ustore → step s = .next t → Memory.wf t.params t.ustore

/-- `UPC` stays in 0..43, a running machine has cause 0 and a halted one stands at address 0 with cause 1
(10_state.md section 7; decisions D2 and D23, log entry 11). -/
def Obligations.StepKeepsTheSequencerLegal : Prop :=
  ∀ s t : State, s.SequencerLegal → step s = .next t → t.SequencerLegal

/-- The caps line is `HIGH` exactly when the latch is `ON` (43_toggle_command_engine.md; from reset by decisions D7 and D8). -/
def Obligations.StepKeepsTheCapsLineShowingTheLatch : Prop :=
  ∀ s t : State, s.CapsShown → step s = .next t → t.CapsShown

/-- At every read of the signal line the selection lines hold the channel of the register it loads
(20_memory.md section 6, 40_mux_driver.md). -/
def Obligations.StepKeepsSelectBeforeRead : Prop :=
  ∀ s t : State, s.Intact → s.ReadsItsChannel → step s = .next t → t.ReadsItsChannel

/-- What a micro-operation still to come in the cycle reads has been computed in this cycle from its sources
(10_state.md section 2, lifecycle of the per-cycle registers). -/
def Obligations.StepKeepsPerCycleRegistersComputed : Prop :=
  ∀ s t : State, s.Intact → s.CycleComputed → step s = .next t → t.CycleComputed

/-- The report buffer keeps a length of its range (10_state.md, `RPT`; 44_report_formatter.md, length). -/
def Obligations.StepKeepsTheReportLengthInRange : Prop :=
  ∀ s t : State, s.ReportSized → step s = .next t → t.ReportSized

/-- The state after power-on meets every invariant above (the reset values of `RPT` and `SELR` are the model's choice, log
entries 5 and 6; those of `CAPS`, `PREVCAPS` and `CAPS_OUT` are decisions D7 and D8). -/
def Obligations.ResetMeetsEveryInvariant : Prop :=
  Memory.wf State.reset.params State.reset.ustore ∧ State.reset.SequencerLegal ∧ State.reset.CapsShown ∧
  State.reset.ReadsItsChannel ∧ State.reset.CycleComputed ∧ State.reset.ReportSized ∧ State.reset.params.WellFormed

/-- The state after power-on: debugging on, streaming off, entry at address 0 with `BOOT`, both streams empty
(10_state.md section 8, 70_reset_and_hazards.md section 1), and the spec's decided values of `CAPS`, `PREVCAPS`,
`CAPS_OUT`, `HALT` and `CAUSE` (decisions D7, D8, D23, log entry 8). -/
def Obligations.ResetState : Prop :=
  State.reset.dbg = true ∧ State.reset.strm = false ∧ State.reset.upc = 0 ∧ fetch State.reset = .next .boot ∧
  State.reset.displayStream = [] ∧ State.reset.transmitStream = [] ∧
  State.reset.caps = false ∧ State.reset.prevCaps = false ∧ State.reset.capsOut = .low ∧
  State.reset.halt = false ∧ State.reset.cause = 0 ∧ State.reset.pstate = 0x4

/-! ## Start-up -/

/-- With a display that answers, start-up takes two steps: the answer, the splash and its pause, then the first cycle
(70_reset_and_hazards.md section 2; the splash as one event is decision D34, log entries 16 and 17). -/
def Obligations.StartUpReachesTheFirstCycle : Prop :=
  ∀ s : State, s.halt = false → s.Intact → s.upc = 0 → s.dispOk = true →
    ∃ t, Runs 2 s t ∧ t.AtCycleStart ∧ t.persistent = s.persistent ∧ t.capsOut = s.capsOut ∧
      t.trace = s.trace ++ [.dispInit true, .disp (.splash "Ready"), .pause .splash]

/-- With a display that fails, the block halts for good at its first step: no splash, no sample, no byte, ever
(45_sinks_and_sequencing.md, `BOOT`; 60_exceptions.md; decision D23, log entry 11). -/
def Obligations.FailedDisplayHaltsForGood : Prop :=
  ∀ s : State, s.halt = false → s.Intact → s.upc = 0 → s.dispOk = false →
    ∃ t, step s = .next t ∧ t.halt = true ∧ t.cause = 1 ∧ t.upc = 0 ∧ t.persistent = s.persistent ∧
      t.trace = s.trace ++ [.dispInit false, .halt 1] ∧
      ∀ n : Nat, Host.Core.run Sys2Proof.core (n + 1) t = .fault (.halted 1)

/-! ## The scan and the cycle -/

/-- The 33 steps of the scan load the 17 samples in the schedule's order and change nothing but `ROW`, `COL`, `SELR`,
`UPC`, the trace and the inputs taken (41_matrix_scanner.md, the contract `scan()`; the answers are free inputs, log
entry 2, and an event holds the level, log entry 14). -/
def Obligations.ScanLoadsTheSamplesInOrder : Prop :=
  ∀ s : State, s.AtCycleStart → Runs 33 s { s with
    script := s.script.drop 17, draws := s.draws + (17 - s.script.length)
    row := samplesRow s.cycleSamples, col := samplesCol s.cycleSamples
    selr := s.params.colCh[10], trace := s.trace ++ scanEvents s.params s.cycleSamples, upc := 35 }

/-- R145: the scanner cannot fail, and every one of the `2^17` pairs of a Row Set and a Column Set can occur. -/
def Obligations.EveryScanResultCanOccur : Prop :=
  (∀ (s : State) (i : Instr), i ∈ scanOps s.params → ∃ t, exec i s = .next t ∧ t.halt = s.halt ∧ t.cause = s.cause) ∧
  (∀ (s : State) (row : RowSet) (col : ColSet), s.AtCycleStart →
    ∃ (answers : List Bool) (t : State), Runs 33 { s with script := answers ++ s.script } t ∧ t.row = row ∧ t.col = col)

/-- R77: in the micro-program every `RDR` and every `RDC` is the word directly after the `SEL` that addresses it. -/
def Obligations.EveryReadDirectlyFollowsItsSelect : Prop :=
  (∀ (p : Params) (a : Nat) (r : Fin 5), microOp p a = some (.rdr (BitVec.ofNat 4 r.val)) →
    1 ≤ a ∧ microOp p (a - 1) = some (.sel p.rowCh[r])) ∧
  (∀ (p : Params) (a : Nat) (j : Fin 11), microOp p a = some (.rdc (BitVec.ofNat 4 (j.val + 1))) →
    1 ≤ a ∧ microOp p (a - 1) = some (.sel p.colCh[j])) ∧
  (∀ (p : Params) (a : Nat) (x : Arg), microOp p a = some (.rdr x) → ∃ r : Fin 5, x = BitVec.ofNat 4 r.val) ∧
  (∀ (p : Params) (a : Nat) (x : Arg), microOp p a = some (.rdc x) → ∃ j : Fin 11, x = BitVec.ofNat 4 (j.val + 1))

/-- The two descriptions agree: the 42 steps of a cycle end in exactly the state and the trace the cycle function gives,
from every state at the start of a cycle (45_sinks_and_sequencing.md, the cycle as one function).
The order of the events in both is the one the spec decides: the engine's order (decision D10), a confirmation and its
pause inside the firing `CMD` (D11), the sinks after the engine (D32), all in log entry 16. -/
def Obligations.CycleOfStepsIsTheCycleFunction : Prop :=
  ∀ s : State, s.AtCycleStart → Runs 42 s s.afterCycle

/-- No carry-over: two machines at the start of a cycle that differ only in the per-cycle registers and `SELR` are in the
same state at its end (10_state.md section 2).
The two are given equal inputs, the premise log entry 2 asks of a comparison of two runs: `SameCarry` holds their scripts
and their draw counters equal, so the same reads get the same answers. -/
def Obligations.PerCycleRegistersDoNotCarryOver : Prop :=
  ∀ s u : State, s.AtCycleStart → s.SameCarry u → ∃ t, Runs 42 s t ∧ Runs 42 u t

/-- A chord that stays present toggles its mode in every cycle, each time with a confirmation and a pause: after `m` cycles
the flag has been complemented `m` times (43_toggle_command_engine.md, no edge detection on chords). -/
def Obligations.HeldChordTogglesInEveryCycle : Prop :=
  ∀ (m : Nat) (s : State), s.AtCycleStart →
    Runs (42 * m) s (s.afterCycles m) ∧
    ((∀ j < m, chDbg (s.afterCycles (j + 1)).flags = true) →
      (s.afterCycles m).dbg = (s.dbg ^^ decide (m % 2 = 1)) ∧
      (s.afterCycles m).trace.countP (isConfirm .dbgMode) = s.trace.countP (isConfirm .dbgMode) + m ∧
      s.trace.countP isConfirmPause + m ≤ (s.afterCycles m).trace.countP isConfirmPause) ∧
    ((∀ j < m, chStrm (s.afterCycles (j + 1)).flags = true) →
      (s.afterCycles m).strm = (s.strm ^^ decide (m % 2 = 1)) ∧
      (s.afterCycles m).trace.countP (isConfirm .stream) = s.trace.countP (isConfirm .stream) + m ∧
      s.trace.countP isConfirmPause + m ≤ (s.afterCycles m).trace.countP isConfirmPause)

/-- The caps line is written once per press: over `m` cycles the `CapsOut` events are as many as the cycles in which
`"caps"` is present and was absent in the cycle before (43_toggle_command_engine.md, once per press). -/
def Obligations.CapsLineIsWrittenOncePerPress : Prop :=
  ∀ (m : Nat) (s : State), s.AtCycleStart →
    Runs (42 * m) s (s.afterCycles m) ∧
    (s.afterCycles m).trace.countP isCapsOut = s.trace.countP isCapsOut +
      (List.range m).countP fun j => (s.afterCycles (j + 1)).flags.caps &&
        !(if j = 0 then s.prevCaps else (s.afterCycles j).flags.caps)

/-- What the two sinks receive in one cycle: at most one confirmation of each flag, exactly one clear, the debug text
exactly while debugging, one key line per active pair, no splash, and one transmit line exactly while streaming, the mode
flags taken as the engine left them (45_sinks_and_sequencing.md, what the Display Sink can receive; decision D32,
log entry 16). -/
def Obligations.CycleContentsOfTheSinks : Prop :=
  ∀ s : State, s.AtCycleStart → ∃ (t : State) (es : List Event), Runs 42 s t ∧ t.trace = s.trace ++ es ∧
    es.countP (isConfirm .dbgMode) = (if t.dbg = s.dbg then 0 else 1) ∧
    es.countP (isConfirm .stream) = (if t.strm = s.strm then 0 else 1) ∧
    es.count (.disp .clear) = 1 ∧
    es.countP isDebugText = (if t.dbg then 1 else 0) ∧
    es.countP isKeyLine = countBits t.row.toList * countBits t.col.toList ∧
    es.countP isSplash = 0 ∧
    t.txLines = s.txLines ++ (if t.strm then [t.rpt ++ s.params.newline] else [])

/-! ## Key decoding -/

/-- The index reversal is a bijection of the 60 positions onto the 60 cells and its own inverse; its four corners
(20_memory.md section 5, 30_encoding.md section 3). -/
def Obligations.ReversalIsABijection : Prop :=
  (∀ (r : Fin 5) (k : Fin 12), (revRow r).val = 4 - r.val ∧ (revCol k).val = 11 - k.val ∧
    revRow (revRow r) = r ∧ revCol (revCol k) = k) ∧
  (revRow 0, revCol 0) = (4, 11) ∧ (revRow 0, revCol 11) = (4, 0) ∧ (revRow 4, revCol 0) = (0, 11) ∧
  (revRow 4, revCol 11) = (0, 0)

/-- The document's own example: row 0 and column 11 active press the one cell `(4, 0)`, whose symbol is `"ctrl"`
(95_test_vectors.md, example E4). -/
def Obligations.RowZeroColumnElevenIsCtrl : Prop :=
  ∀ s : State, s.params.WellFormed → s.row = #v[true, false, false, false, false] →
    s.col = #v[false, false, false, false, false, false, false, false, false, false, false, true] →
    ∃ t, exec .dec s = .next t ∧ (∀ (tr : Fin 5) (tc : Fin 12), t.cells[tr][tc] = true ↔ tr = 4 ∧ tc = 0) ∧
      pressedList s.params s.row s.col = [.ctrl]

/-- R152: after `DEC` the number of pressed cells is the number of active rows times the number of active columns,
whatever the key map; the listed symbols are as many, and are all different when the key map repeats none. -/
def Obligations.PressedCountIsTheProduct : Prop :=
  ∀ s : State, ∃ t, exec .dec s = .next t ∧
    countCells t.cells = countBits s.row.toList * countBits s.col.toList ∧ countCells t.cells ≤ 60 ∧
    (pressedList s.params s.row s.col).length = countCells t.cells ∧
    (∀ x : Symbol, x ∈ pressedList s.params s.row s.col ↔ SymbolPressed s.params t.cells x) ∧
    (s.params.NoRepeats → (pressedList s.params s.row s.col).Nodup)

/-! ## The report line -/

/-- The decimal numeral of every index 0..11 (30_encoding.md section 3; the radix and the code are decision D14, log entry
15). -/
def Obligations.DecimalNumeralsOfTheIndices : Prop :=
  (∀ i : Nat, i < 10 → decNumeral i = [BitVec.ofNat 8 (0x30 + i)]) ∧
  decNumeral 10 = [0x31, 0x30] ∧ decNumeral 11 = [0x31, 0x31]

/-- R182: with nothing active the line is exactly the eight bytes of `"R: , C: "`, in both readings. -/
def Obligations.NothingActiveReport : Prop :=
  ∀ s : State, (∀ r : Fin 5, s.row[r] = false) → (∀ k : Fin 12, s.col[k] = false) →
    ∃ t, exec .fmt s = .next t ∧ t.rpt = [0x52, 0x3A, 0x20, 0x2C, 0x20, 0x43, 0x3A, 0x20]

/-- An index list is ascending, without repeats, and holds exactly the active physical indices; the line holds no newline
byte (44_report_formatter.md, order and content; the code is decision D14, log entry 15). -/
def Obligations.ReportListsTheActiveIndicesAscending : Prop :=
  (∀ (n : Nat) (bits : Vector Bool n), (activeIndices bits).Pairwise (· < ·) ∧
    ∀ i, i ∈ activeIndices bits ↔ ∃ h : i < n, bits[i] = true) ∧
  (∀ (trailing : Bool) (row : RowSet) (col : ColSet), (0x0A : Byte) ∉ format trailing row col)

/-- The length of the line in both readings (44_report_formatter.md, length, whose formulas the spec marks as derived).
With the trailing space every index costs its numeral and one space; joined, each list that is not empty is one space
shorter. The shortest line, with nothing active, is 8 bytes in both; the longest, with every row and every column active,
is 44 bytes with the trailing space and 42 joined. -/
def Obligations.ReportLength : Prop :=
  (∀ (row : RowSet) (col : ColSet),
    (format true row col).length =
      8 + 2 * countBits row.toList + 2 * countBits (col.toList.take 10) + 3 * countBits (col.toList.drop 10) ∧
    (format false row col).length =
      8 + (if countBits row.toList = 0 then 0 else 2 * countBits row.toList - 1) +
        (if countBits col.toList = 0 then 0
          else 2 * countBits (col.toList.take 10) + 3 * countBits (col.toList.drop 10) - 1) ∧
    8 ≤ (format true row col).length ∧ (format true row col).length ≤ 44 ∧
    8 ≤ (format false row col).length ∧ (format false row col).length ≤ 42) ∧
  (∀ trailing : Bool, (format trailing (.replicate 5 false) (.replicate 12 false)).length = 8) ∧
  (format true (.replicate 5 true) (.replicate 12 true)).length = 44 ∧
  (format false (.replicate 5 true) (.replicate 12 true)).length = 42

/-- Two different pairs give two different lines, in both readings (44_report_formatter.md, `format` is injective). -/
def Obligations.ReportLineIsInjective : Prop :=
  ∀ (trailing : Bool) (row row' : RowSet) (col col' : ColSet),
    format trailing row col = format trailing row' col' → row = row' ∧ col = col'
end

