-- ==== Sys2Proof/Laws/State.lean ====
section
/-!
SUPPORT. The small lemmas of State: what each named update leaves in each field.
-/

namespace Sys2Proof.Machine

/-! `State.emit` changes the trace alone. -/

@[simp] theorem State.emit_params (s : State) (es : List Event) : (s.emit es).params = s.params := rfl
@[simp] theorem State.emit_ustore (s : State) (es : List Event) : (s.emit es).ustore = s.ustore := rfl
@[simp] theorem State.emit_script (s : State) (es : List Event) : (s.emit es).script = s.script := rfl
@[simp] theorem State.emit_draws (s : State) (es : List Event) : (s.emit es).draws = s.draws := rfl
@[simp] theorem State.emit_row (s : State) (es : List Event) : (s.emit es).row = s.row := rfl
@[simp] theorem State.emit_col (s : State) (es : List Event) : (s.emit es).col = s.col := rfl
@[simp] theorem State.emit_cells (s : State) (es : List Event) : (s.emit es).cells = s.cells := rfl
@[simp] theorem State.emit_flags (s : State) (es : List Event) : (s.emit es).flags = s.flags := rfl
@[simp] theorem State.emit_rpt (s : State) (es : List Event) : (s.emit es).rpt = s.rpt := rfl
@[simp] theorem State.emit_dbg (s : State) (es : List Event) : (s.emit es).dbg = s.dbg := rfl
@[simp] theorem State.emit_strm (s : State) (es : List Event) : (s.emit es).strm = s.strm := rfl
@[simp] theorem State.emit_caps (s : State) (es : List Event) : (s.emit es).caps = s.caps := rfl
@[simp] theorem State.emit_prevCaps (s : State) (es : List Event) : (s.emit es).prevCaps = s.prevCaps := rfl
@[simp] theorem State.emit_selr (s : State) (es : List Event) : (s.emit es).selr = s.selr := rfl
@[simp] theorem State.emit_capsOut (s : State) (es : List Event) : (s.emit es).capsOut = s.capsOut := rfl
@[simp] theorem State.emit_trace (s : State) (es : List Event) : (s.emit es).trace = s.trace ++ es := rfl
@[simp] theorem State.emit_upc (s : State) (es : List Event) : (s.emit es).upc = s.upc := rfl
@[simp] theorem State.emit_halt (s : State) (es : List Event) : (s.emit es).halt = s.halt := rfl
@[simp] theorem State.emit_cause (s : State) (es : List Event) : (s.emit es).cause = s.cause := rfl

/-! `State.advance` changes the micro-program counter alone. -/

@[simp] theorem State.advance_params (s : State) : (s.advance).params = s.params := rfl
@[simp] theorem State.advance_ustore (s : State) : (s.advance).ustore = s.ustore := rfl
@[simp] theorem State.advance_script (s : State) : (s.advance).script = s.script := rfl
@[simp] theorem State.advance_draws (s : State) : (s.advance).draws = s.draws := rfl
@[simp] theorem State.advance_row (s : State) : (s.advance).row = s.row := rfl
@[simp] theorem State.advance_col (s : State) : (s.advance).col = s.col := rfl
@[simp] theorem State.advance_cells (s : State) : (s.advance).cells = s.cells := rfl
@[simp] theorem State.advance_flags (s : State) : (s.advance).flags = s.flags := rfl
@[simp] theorem State.advance_rpt (s : State) : (s.advance).rpt = s.rpt := rfl
@[simp] theorem State.advance_dbg (s : State) : (s.advance).dbg = s.dbg := rfl
@[simp] theorem State.advance_strm (s : State) : (s.advance).strm = s.strm := rfl
@[simp] theorem State.advance_caps (s : State) : (s.advance).caps = s.caps := rfl
@[simp] theorem State.advance_prevCaps (s : State) : (s.advance).prevCaps = s.prevCaps := rfl
@[simp] theorem State.advance_selr (s : State) : (s.advance).selr = s.selr := rfl
@[simp] theorem State.advance_capsOut (s : State) : (s.advance).capsOut = s.capsOut := rfl
@[simp] theorem State.advance_trace (s : State) : (s.advance).trace = s.trace := rfl
@[simp] theorem State.advance_upc (s : State) : (s.advance).upc = s.upc + 1 := rfl
@[simp] theorem State.advance_halt (s : State) : (s.advance).halt = s.halt := rfl
@[simp] theorem State.advance_cause (s : State) : (s.advance).cause = s.cause := rfl

/-! `State.takeAnswer` changes the script and the draw counter alone. -/

@[simp] theorem State.takeAnswer_params (s : State) : (s.takeAnswer).params = s.params := rfl
@[simp] theorem State.takeAnswer_ustore (s : State) : (s.takeAnswer).ustore = s.ustore := rfl
@[simp] theorem State.takeAnswer_script (s : State) : (s.takeAnswer).script = s.script.tail := rfl
@[simp] theorem State.takeAnswer_draws (s : State) : (s.takeAnswer).draws = if s.script.isEmpty then s.draws + 1 else s.draws := rfl
@[simp] theorem State.takeAnswer_row (s : State) : (s.takeAnswer).row = s.row := rfl
@[simp] theorem State.takeAnswer_col (s : State) : (s.takeAnswer).col = s.col := rfl
@[simp] theorem State.takeAnswer_cells (s : State) : (s.takeAnswer).cells = s.cells := rfl
@[simp] theorem State.takeAnswer_flags (s : State) : (s.takeAnswer).flags = s.flags := rfl
@[simp] theorem State.takeAnswer_rpt (s : State) : (s.takeAnswer).rpt = s.rpt := rfl
@[simp] theorem State.takeAnswer_dbg (s : State) : (s.takeAnswer).dbg = s.dbg := rfl
@[simp] theorem State.takeAnswer_strm (s : State) : (s.takeAnswer).strm = s.strm := rfl
@[simp] theorem State.takeAnswer_caps (s : State) : (s.takeAnswer).caps = s.caps := rfl
@[simp] theorem State.takeAnswer_prevCaps (s : State) : (s.takeAnswer).prevCaps = s.prevCaps := rfl
@[simp] theorem State.takeAnswer_selr (s : State) : (s.takeAnswer).selr = s.selr := rfl
@[simp] theorem State.takeAnswer_capsOut (s : State) : (s.takeAnswer).capsOut = s.capsOut := rfl
@[simp] theorem State.takeAnswer_trace (s : State) : (s.takeAnswer).trace = s.trace := rfl
@[simp] theorem State.takeAnswer_upc (s : State) : (s.takeAnswer).upc = s.upc := rfl
@[simp] theorem State.takeAnswer_halt (s : State) : (s.takeAnswer).halt = s.halt := rfl
@[simp] theorem State.takeAnswer_cause (s : State) : (s.takeAnswer).cause = s.cause := rfl

/-! `State.raise` changes `HALT`, `CAUSE` and the trace alone (R215). -/

@[simp] theorem State.raise_params (s : State) (e : Exc) : (s.raise e).params = s.params := rfl
@[simp] theorem State.raise_ustore (s : State) (e : Exc) : (s.raise e).ustore = s.ustore := rfl
@[simp] theorem State.raise_script (s : State) (e : Exc) : (s.raise e).script = s.script := rfl
@[simp] theorem State.raise_draws (s : State) (e : Exc) : (s.raise e).draws = s.draws := rfl
@[simp] theorem State.raise_row (s : State) (e : Exc) : (s.raise e).row = s.row := rfl
@[simp] theorem State.raise_col (s : State) (e : Exc) : (s.raise e).col = s.col := rfl
@[simp] theorem State.raise_cells (s : State) (e : Exc) : (s.raise e).cells = s.cells := rfl
@[simp] theorem State.raise_flags (s : State) (e : Exc) : (s.raise e).flags = s.flags := rfl
@[simp] theorem State.raise_rpt (s : State) (e : Exc) : (s.raise e).rpt = s.rpt := rfl
@[simp] theorem State.raise_dbg (s : State) (e : Exc) : (s.raise e).dbg = s.dbg := rfl
@[simp] theorem State.raise_strm (s : State) (e : Exc) : (s.raise e).strm = s.strm := rfl
@[simp] theorem State.raise_caps (s : State) (e : Exc) : (s.raise e).caps = s.caps := rfl
@[simp] theorem State.raise_prevCaps (s : State) (e : Exc) : (s.raise e).prevCaps = s.prevCaps := rfl
@[simp] theorem State.raise_selr (s : State) (e : Exc) : (s.raise e).selr = s.selr := rfl
@[simp] theorem State.raise_capsOut (s : State) (e : Exc) : (s.raise e).capsOut = s.capsOut := rfl
@[simp] theorem State.raise_trace (s : State) (e : Exc) : (s.raise e).trace = s.trace ++ [.halt e.code] := rfl
@[simp] theorem State.raise_upc (s : State) (e : Exc) : (s.raise e).upc = s.upc := rfl
@[simp] theorem State.raise_halt (s : State) (e : Exc) : (s.raise e).halt = true := rfl
@[simp] theorem State.raise_cause (s : State) (e : Exc) : (s.raise e).cause = e.code := rfl

/-! `State.toggleCaps` changes `CAPS`, `CAPS_OUT` and the trace alone (R161). -/

@[simp] theorem State.toggleCaps_params (s : State) : (s.toggleCaps).params = s.params := rfl
@[simp] theorem State.toggleCaps_ustore (s : State) : (s.toggleCaps).ustore = s.ustore := rfl
@[simp] theorem State.toggleCaps_script (s : State) : (s.toggleCaps).script = s.script := rfl
@[simp] theorem State.toggleCaps_draws (s : State) : (s.toggleCaps).draws = s.draws := rfl
@[simp] theorem State.toggleCaps_row (s : State) : (s.toggleCaps).row = s.row := rfl
@[simp] theorem State.toggleCaps_col (s : State) : (s.toggleCaps).col = s.col := rfl
@[simp] theorem State.toggleCaps_cells (s : State) : (s.toggleCaps).cells = s.cells := rfl
@[simp] theorem State.toggleCaps_flags (s : State) : (s.toggleCaps).flags = s.flags := rfl
@[simp] theorem State.toggleCaps_rpt (s : State) : (s.toggleCaps).rpt = s.rpt := rfl
@[simp] theorem State.toggleCaps_dbg (s : State) : (s.toggleCaps).dbg = s.dbg := rfl
@[simp] theorem State.toggleCaps_strm (s : State) : (s.toggleCaps).strm = s.strm := rfl
@[simp] theorem State.toggleCaps_caps (s : State) : (s.toggleCaps).caps = !s.caps := rfl
@[simp] theorem State.toggleCaps_prevCaps (s : State) : (s.toggleCaps).prevCaps = s.prevCaps := rfl
@[simp] theorem State.toggleCaps_selr (s : State) : (s.toggleCaps).selr = s.selr := rfl
@[simp] theorem State.toggleCaps_capsOut (s : State) : (s.toggleCaps).capsOut = bitLevel (!s.caps) := rfl
@[simp] theorem State.toggleCaps_trace (s : State) : (s.toggleCaps).trace = s.trace ++ [.capsOut (bitLevel (!s.caps))] := rfl
@[simp] theorem State.toggleCaps_upc (s : State) : (s.toggleCaps).upc = s.upc := rfl
@[simp] theorem State.toggleCaps_halt (s : State) : (s.toggleCaps).halt = s.halt := rfl
@[simp] theorem State.toggleCaps_cause (s : State) : (s.toggleCaps).cause = s.cause := rfl

/-! `State.placeWord` changes the micro-program space alone. -/

@[simp] theorem State.placeWord_params (s : State) (w : Word) : (s.placeWord w).params = s.params := rfl
@[simp] theorem State.placeWord_ustore (s : State) (w : Word) : (s.placeWord w).ustore = Memory.write s.params s.upc.toNat w s.ustore := rfl
@[simp] theorem State.placeWord_script (s : State) (w : Word) : (s.placeWord w).script = s.script := rfl
@[simp] theorem State.placeWord_draws (s : State) (w : Word) : (s.placeWord w).draws = s.draws := rfl
@[simp] theorem State.placeWord_row (s : State) (w : Word) : (s.placeWord w).row = s.row := rfl
@[simp] theorem State.placeWord_col (s : State) (w : Word) : (s.placeWord w).col = s.col := rfl
@[simp] theorem State.placeWord_cells (s : State) (w : Word) : (s.placeWord w).cells = s.cells := rfl
@[simp] theorem State.placeWord_flags (s : State) (w : Word) : (s.placeWord w).flags = s.flags := rfl
@[simp] theorem State.placeWord_rpt (s : State) (w : Word) : (s.placeWord w).rpt = s.rpt := rfl
@[simp] theorem State.placeWord_dbg (s : State) (w : Word) : (s.placeWord w).dbg = s.dbg := rfl
@[simp] theorem State.placeWord_strm (s : State) (w : Word) : (s.placeWord w).strm = s.strm := rfl
@[simp] theorem State.placeWord_caps (s : State) (w : Word) : (s.placeWord w).caps = s.caps := rfl
@[simp] theorem State.placeWord_prevCaps (s : State) (w : Word) : (s.placeWord w).prevCaps = s.prevCaps := rfl
@[simp] theorem State.placeWord_selr (s : State) (w : Word) : (s.placeWord w).selr = s.selr := rfl
@[simp] theorem State.placeWord_capsOut (s : State) (w : Word) : (s.placeWord w).capsOut = s.capsOut := rfl
@[simp] theorem State.placeWord_trace (s : State) (w : Word) : (s.placeWord w).trace = s.trace := rfl
@[simp] theorem State.placeWord_upc (s : State) (w : Word) : (s.placeWord w).upc = s.upc := rfl
@[simp] theorem State.placeWord_halt (s : State) (w : Word) : (s.placeWord w).halt = s.halt := rfl
@[simp] theorem State.placeWord_cause (s : State) (w : Word) : (s.placeWord w).cause = s.cause := rfl

/-! The updates that are made of those above. -/

@[simp] theorem State.afterMemRead_eq (s : State) :
    s.afterMemRead = s.takeAnswer.emit [.sampleSig s.selr s.sigLevel] := rfl
@[simp] theorem State.afterColRead_eq (s : State) :
    s.afterColRead = s.takeAnswer.emit [.sampleCol0 s.col0Level] := rfl
@[simp] theorem State.afterDispOk_eq (s : State) : s.afterDispOk = s.takeAnswer.emit [.dispInit s.dispOk] := rfl
@[simp] theorem State.confirm_eq (s : State) (which : ModeFlag) (v : Bool) :
    s.confirm which v = s.emit [.disp (.confirm which v), .pause .confirm] := rfl

end Sys2Proof.Machine
end

