-- ==== Sys2Proof/Laws/Memory.lean ====
section
/-!
SUPPORT. The micro-program space: a word reads back where it was placed, every other address reads as before, and
every operation keeps the canonical form. A reserved address holds no word, whatever is listed (R107).
-/

namespace Sys2Proof.Machine

/-- The micro-program holds a legal micro-operation at each of 0..43 (R94). -/
theorem microOp_legal (p : Params) {a : Nat} (h : a ≤ 43) : ∃ i, microOp p a = some i ∧ i.WellFormed := by
  interval_cases a <;> simp [microOp, Instr.WellFormed, Instr.wellFormed]

/-- The micro-program holds nothing from 44 on (R94). -/
theorem microOp_none (p : Params) {a : Nat} (h : 44 ≤ a) : microOp p a = none := by
  unfold microOp
  rw [if_neg (by omega), dif_neg (by omega), if_neg (by omega), dif_neg (by omega)]
  split <;> first | omega | rfl

/-- The reserved addresses, and they alone, hold no word (R107). -/
theorem State.readWord_eq_none_iff (s : State) {a : Nat} : s.readWord a = none ↔ 44 ≤ a := by
  unfold State.readWord microProgramSize
  split
  · simpa
  · rename_i h
    obtain ⟨i, hi, -⟩ := microOp_legal s.params (a := a) (by omega)
    cases Memory.lookup a s.ustore <;> simp [microWord, hi] <;> omega

theorem Memory.erase_cons (a : Nat) (cell : Host.Cell) (rest : List Host.Cell) :
    Memory.erase a (cell :: rest) = if cell.1 = a then Memory.erase a rest else cell :: Memory.erase a rest := by
  unfold Memory.erase
  by_cases h : cell.1 = a <;> simp [h]

theorem Memory.lookup_erase_same (a : Nat) (m : List Host.Cell) : Memory.lookup a (Memory.erase a m) = none := by
  induction m with
  | nil => rfl
  | cons cell rest ih =>
    rw [Memory.erase_cons]
    split
    · exact ih
    · rename_i h
      rw [Memory.lookup, if_neg h, ih]

theorem Memory.lookup_erase_other {a b : Nat} (h : b ≠ a) (m : List Host.Cell) :
    Memory.lookup b (Memory.erase a m) = Memory.lookup b m := by
  induction m with
  | nil => rfl
  | cons cell rest ih =>
    rw [Memory.erase_cons]
    split
    · rename_i hc
      rw [ih, Memory.lookup, if_neg (by omega)]
    · simp only [Memory.lookup, ih]

/-- Putting a cell in for an address the list does not hold changes the reading of that address alone. -/
theorem Memory.lookup_insert (a b : Nat) (w : Word) (m : List Host.Cell) (h : Memory.lookup a m = none) :
    Memory.lookup b (Memory.insert a w m) = if b = a then some w else Memory.lookup b m := by
  induction m with
  | nil => simp [Memory.insert, Memory.lookup, eq_comm]
  | cons cell rest ih =>
    obtain ⟨d, v⟩ := cell
    have hd : d ≠ a := by
      rintro rfl
      simp [Memory.lookup] at h
    have hr : Memory.lookup a rest = none := by simpa [Memory.lookup, hd] using h
    unfold Memory.insert
    split
    · simp [Memory.lookup, eq_comm]
    · by_cases hb : d = b
      · subst hb
        simp [Memory.lookup, hd]
      · simp [Memory.lookup, hb, ih hr]

/-- Read after write (R64): the placed word at the fetch address, the old word everywhere else. -/
theorem State.readWord_placeWord (s : State) (w : Word) (a : Nat) (hupc : s.upc.toNat ≤ 43) :
    (s.placeWord w).readWord a = if a = s.upc.toNat then some w else s.readWord a := by
  have hfetch : ¬ microProgramSize ≤ s.upc.toNat := by
    unfold microProgramSize
    omega
  have hsame := Memory.lookup_erase_same s.upc.toNat s.ustore
  simp only [State.readWord, State.placeWord_ustore, State.placeWord_params, Memory.write, if_neg hfetch]
  by_cases hres : microProgramSize ≤ a
  · rw [if_pos hres, if_pos hres, if_neg (by omega)]
  rw [if_neg hres, if_neg hres]
  by_cases hw : microWord s.params s.upc.toNat = some w
  · rw [if_pos hw]
    by_cases ha : a = s.upc.toNat
    · subst ha
      simp [hsame, hw]
    · rw [Memory.lookup_erase_other ha, if_neg ha]
  · rw [if_neg hw, Memory.lookup_insert _ _ _ _ hsame]
    by_cases ha : a = s.upc.toNat
    · simp [ha]
    · rw [if_neg ha, if_neg ha, Memory.lookup_erase_other ha]

/-- Nothing is placed at a reserved `UPC` value (R107). -/
theorem State.placeWord_reserved (s : State) (w : Word) (h : 44 ≤ s.upc.toNat) : s.placeWord w = s := by
  simp [State.placeWord, Memory.write, microProgramSize, h]

theorem Memory.mem_insert {a : Nat} {w : Word} {m : List Host.Cell} {cell : Host.Cell} :
    cell ∈ Memory.insert a w m ↔ cell = (a, w) ∨ cell ∈ m := by
  induction m with
  | nil => simp [Memory.insert]
  | cons c rest ih =>
    unfold Memory.insert
    split
    · simp
    · simp only [List.mem_cons, ih]
      tauto

/-- Putting a cell in at a new address keeps the addresses strictly rising. -/
theorem Memory.insert_rising {a : Nat} {w : Word} {m : List Host.Cell} (h : (m.map Prod.fst).Pairwise (· < ·))
    (hnew : ∀ cell ∈ m, cell.1 ≠ a) : ((Memory.insert a w m).map Prod.fst).Pairwise (· < ·) := by
  induction m with
  | nil => simp [Memory.insert]
  | cons c rest ih =>
    rw [List.map_cons, List.pairwise_cons] at h
    have hc : c.1 ≠ a := hnew c (by simp)
    unfold Memory.insert
    split
    · rename_i hlt
      simp only [List.map_cons, List.pairwise_cons, List.mem_cons, forall_eq_or_imp]
      exact ⟨⟨hlt, fun x hx => hlt.trans (h.1 x hx)⟩, h.1, h.2⟩
    · rename_i hlt
      simp only [List.map_cons, List.pairwise_cons, List.mem_map]
      refine ⟨?_, ih h.2 fun cell hcell => hnew cell (by simp [hcell])⟩
      rintro x ⟨cell, hcell, rfl⟩
      rcases Memory.mem_insert.mp hcell with rfl | hr
      · simp only at hc hlt ⊢
        omega
      · exact h.1 cell.1 (List.mem_map_of_mem hr)

theorem Memory.mem_erase {a : Nat} {m : List Host.Cell} {cell : Host.Cell} :
    cell ∈ Memory.erase a m ↔ cell ∈ m ∧ cell.1 ≠ a := by
  simp [Memory.erase]

theorem Memory.erase_wf {p : Params} {m : List Host.Cell} (a : Nat) (h : Memory.wf p m) : Memory.wf p (Memory.erase a m) := by
  refine ⟨?_, fun cell hcell => h.2 cell (Memory.mem_erase.mp hcell).1⟩
  have hsub : (Memory.erase a m).Sublist m := List.filter_sublist
  exact h.1.sublist (hsub.map Prod.fst)

/-- A write keeps the canonical form. -/
theorem Memory.write_wf {p : Params} {m : List Host.Cell} {a : Nat} (w : Word) (h : Memory.wf p m) :
    Memory.wf p (Memory.write p a w m) := by
  have he := Memory.erase_wf a h
  unfold Memory.write
  split
  · exact h
  rename_i ha
  split
  · exact he
  · rename_i hw
    refine ⟨Memory.insert_rising he.1 fun cell hcell => (Memory.mem_erase.mp hcell).2, fun cell hcell => ?_⟩
    rcases Memory.mem_insert.mp hcell with rfl | hm
    · exact ⟨by omega, hw⟩
    · exact he.2 cell hm

/-- Placing a word keeps the canonical form. -/
theorem State.placeWord_wf (s : State) (w : Word) (h : Memory.wf s.params s.ustore) :
    Memory.wf (s.placeWord w).params (s.placeWord w).ustore :=
  Memory.write_wf w h

theorem State.withFetchWord_wf (s : State) (nbits w : Nat) (h : Memory.wf s.params s.ustore) :
    Memory.wf (s.withFetchWord nbits w).params (s.withFetchWord nbits w).ustore :=
  s.placeWord_wf _ h

/-- With nothing listed every address reads as the micro-program. -/
theorem State.readWord_of_intact {s : State} (h : s.ustore = []) (a : Nat) : s.readWord a = microWord s.params a := by
  unfold State.readWord
  split
  · rename_i ha
    simp [microWord, microOp_none _ ha]
  · simp [h, Memory.lookup]

/-- Memory at reset lists nothing, so it is canonical. -/
theorem Memory.reset_wf : Memory.wf State.reset.params State.reset.ustore := by
  simp [Memory.wf, State.reset]

end Sys2Proof.Machine
end

