-- ==== Sys2Proof/Laws/Ops.lean ====
section
/-!
SUPPORT. One lemma per shared operation: inputs, polarity, index reversal, pressed cells, presence, index lists.
-/

namespace Sys2Proof.Machine

/-! Inputs (R66). -/

@[simp] theorem State.nextAnswer_scripted (s : State) (b : Bool) (rest : List Bool) (line : InputLine) :
    State.nextAnswer line { s with script := b :: rest } = b := rfl

theorem State.nextAnswer_eq_answerAt (s : State) (line : InputLine) : s.nextAnswer line = s.answerAt 0 line := by
  unfold State.nextAnswer State.answerAt
  cases s.script <;> simp

/-- Taking one answer moves the numbering of the coming reads on by one. -/
theorem State.answerAt_takeAnswer (s : State) (k : Nat) (line : InputLine) :
    s.takeAnswer.answerAt k line = s.answerAt (k + 1) line := by
  unfold State.answerAt
  cases h : s.script with
  | nil => simp [h, Nat.add_comm 1 k, Nat.add_assoc]
  | cons b rest => simp [h]

/-- After `n` answers are taken the numbering of the coming reads has moved on by `n`. -/
theorem State.answerAt_taken (s : State) (n k : Nat) (line : InputLine) :
    State.answerAt { s with script := s.script.drop n, draws := s.draws + (n - s.script.length) } k line =
      s.answerAt (n + k) line := by
  simp only [State.answerAt, List.getElem?_drop, List.length_drop]
  cases h : s.script[n + k]? with
  | none =>
    have := List.getElem?_eq_none_iff.mp h
    simp only
    congr 1
    omega
  | some b => rfl

/-! Polarity (R12, D5). -/

@[simp] theorem activeSig_levelFor (p : Params) (b : Bool) : activeSig p (levelFor p.activeSig b) = b := by
  cases b <;> cases h : p.activeSig <;> simp [activeSig, levelFor, otherLevel, h]

@[simp] theorem activeCol0_levelFor (p : Params) (b : Bool) : activeCol0 p (levelFor p.activeCol0 b) = b := by
  cases b <;> cases h : p.activeCol0 <;> simp [activeCol0, levelFor, otherLevel, h]

/-- Every level is the level of some answer. -/
theorem levelFor_surjective (active l : Level) : ∃ b, levelFor active b = l := by
  cases active <;> cases l <;> first | exact ⟨true, rfl⟩ | exact ⟨false, rfl⟩

@[simp] theorem activeSig_sigLevel (s : State) : activeSig s.params s.sigLevel = s.nextAnswer (.sig s.selr) := by
  simp [State.sigLevel]

@[simp] theorem activeCol0_col0Level (s : State) : activeCol0 s.params s.col0Level = s.nextAnswer .col0 := by
  simp [State.col0Level]

@[simp] theorem bitLevel_eq_high (b : Bool) : bitLevel b = .high ↔ b = true := by
  cases b <;> simp [bitLevel]

/-! The key map of the hardware (R8, R98). -/

theorem configParams_wellFormed : Config.params.WellFormed := by
  simp [Params.WellFormed, Config.params, Config.withCtrl]

/-! Index reversal (R73(b)). -/

@[simp] theorem revRow_revRow (r : Fin 5) : revRow (revRow r) = r := by
  apply Fin.ext
  simp only [revRow]
  omega

@[simp] theorem revCol_revCol (k : Fin 12) : revCol (revCol k) = k := by
  apply Fin.ext
  simp only [revCol]
  omega

/-! Pressed cells (R150). -/

@[simp] theorem decodeCells_cell (row : RowSet) (col : ColSet) (tr : Fin 5) (tc : Fin 12) :
    (decodeCells row col)[tr][tc] = (row[revRow tr] && col[revCol tc]) := by
  simp [decodeCells]

theorem mem_activePairs {row : RowSet} {col : ColSet} {r : Fin 5} {k : Fin 12} :
    (r, k) ∈ activePairs row col ↔ row[r] = true ∧ col[k] = true := by
  simp [activePairs]

/-- A symbol is present when some pressed cell holds it (R155, R160). -/
theorem present_iff {p : Params} {cells : CellVec} {x : Symbol} :
    present p cells x = true ↔ ∃ (tr : Fin 5) (tc : Fin 12), cells[tr][tc] = true ∧ p.keyMap[tr][tc] = x := by
  simp [present, keyRead]

/-! Index lists (R183). -/

theorem mem_activeIndices {n : Nat} {bits : Vector Bool n} {i : Nat} :
    i ∈ activeIndices bits ↔ ∃ h : i < n, bits[i] = true := by
  simp only [activeIndices, List.mem_map, List.mem_filter, List.mem_finRange, true_and]
  constructor
  · rintro ⟨j, hj, rfl⟩
    exact ⟨j.isLt, hj⟩
  · rintro ⟨h, hb⟩
    exact ⟨⟨i, h⟩, hb, rfl⟩

end Sys2Proof.Machine
end

