-- ==== Sys2Proof/Laws/PerInstr.lean ====
section
/-!
SUPPORT. For every micro-operation: its word is the one spec/opcode_table.json gives its row.
-/

namespace Sys2Proof.Laws.OpcodeRow

/-- The row's "mask" and "match" in spec/opcode_table.json. -/
def maskMatch : Instr → Word × Word
  | .sel _ => (0xF0, 0x00)
  | .rdr _ => (0xF0, 0x10)
  | .rdc _ => (0xF0, 0x20)
  | .rdd => (0xFF, 0x30)
  | .dec => (0xFF, 0x40)
  | .flg => (0xFF, 0x50)
  | .capt => (0xFF, 0x60)
  | .cmd0 => (0xFF, 0x70)
  | .cmd1 => (0xFF, 0x71)
  | .fmt => (0xFF, 0x80)
  | .disp => (0xFF, 0x90)
  | .tx => (0xFF, 0xA0)
  | .endCycle => (0xFF, 0xB0)
  | .boot => (0xFF, 0xC0)
  | .splash => (0xFF, 0xD0)

/-- The row's "legal_words" in spec/opcode_table.json. -/
def legalWords : Instr → List Word
  | .sel _ => [0x00, 0x01, 0x02, 0x03, 0x04, 0x05, 0x06, 0x07, 0x08, 0x09, 0x0A, 0x0B, 0x0C, 0x0D, 0x0E, 0x0F]
  | .rdr _ => [0x10, 0x11, 0x12, 0x13, 0x14]
  | .rdc _ => [0x21, 0x22, 0x23, 0x24, 0x25, 0x26, 0x27, 0x28, 0x29, 0x2A, 0x2B]
  | .rdd => [0x30]
  | .dec => [0x40]
  | .flg => [0x50]
  | .capt => [0x60]
  | .cmd0 => [0x70]
  | .cmd1 => [0x71]
  | .fmt => [0x80]
  | .disp => [0x90]
  | .tx => [0xA0]
  | .endCycle => [0xB0]
  | .boot => [0xC0]
  | .splash => [0xD0]

/-- The word matches the row's fixed bits, and it is one of the row's legal words exactly when its operand is legal (R93, R112). -/
def Statement (i : Instr) : Prop :=
  encode i &&& (maskMatch i).1 = (maskMatch i).2 ∧ (i.WellFormed ↔ encode i ∈ legalWords i)

theorem sel (a : Arg) : Statement (.sel a) := by
  revert a
  simp only [Statement]
  decide

theorem rdr (r : Arg) : Statement (.rdr r) := by
  revert r
  simp only [Statement]
  decide

theorem rdc (k : Arg) : Statement (.rdc k) := by
  revert k
  simp only [Statement]
  decide

theorem rdd : Statement .rdd := by simp only [Statement]; decide
theorem dec : Statement .dec := by simp only [Statement]; decide
theorem flg : Statement .flg := by simp only [Statement]; decide
theorem capt : Statement .capt := by simp only [Statement]; decide
theorem cmd0 : Statement .cmd0 := by simp only [Statement]; decide
theorem cmd1 : Statement .cmd1 := by simp only [Statement]; decide
theorem fmt : Statement .fmt := by simp only [Statement]; decide
theorem disp : Statement .disp := by simp only [Statement]; decide
theorem tx : Statement .tx := by simp only [Statement]; decide
theorem endCycle : Statement .endCycle := by simp only [Statement]; decide
theorem boot : Statement .boot := by simp only [Statement]; decide
theorem splash : Statement .splash := by simp only [Statement]; decide

end Sys2Proof.Laws.OpcodeRow
end

