-- ==== Sys2Proof/Laws/Step.lean ====
section
/-!
SUPPORT. What a step can do, said once: it fetches a micro-operation and runs its meaning, or it stops.
-/

namespace Sys2Proof.Machine

/-- The sequencer fetches `i` exactly when the machine runs and the word at `UPC` decodes to it (R195). -/
theorem fetch_next_iff {s : State} {i : Instr} :
    fetch s = .next i ↔ s.halt = false ∧ ∃ w, s.readWord s.upc.toNat = some w ∧ decode w = .ok i := by
  unfold fetch
  cases hh : s.halt with
  | true => simp
  | false =>
    cases hw : s.readWord s.upc.toNat with
    | none => simp
    | some w => cases hd : decode w <;> simp [hd]

/-- A step that answers a next state ran the meaning of the micro-operation it fetched. -/
theorem step_next_iff {s t : State} : step s = .next t ↔ ∃ i, fetch s = .next i ∧ exec i s = .next t := by
  unfold step
  cases h : fetch s <;> simp

theorem step_of_fetch {s : State} {i : Instr} (h : fetch s = .next i) : step s = exec i s := by
  simp [step, h]

/-- What each meaning can answer, said once: if `exec i s` is a next state, it is the one below. -/
theorem exec_next_cases {i : Instr} {s t : State} (h : exec i s = .next t) :
    match i with
    | .sel a => t = ({ s with selr := a }.emit [.selWrite a]).advance
    | .rdr r => ∃ hr : r.toNat < 5,
        t = { s.afterMemRead with row := s.row.set r.toNat (activeSig s.params s.sigLevel) hr }.advance
    | .rdc k => ∃ hk : 1 ≤ k.toNat ∧ k.toNat < 12,
        t = { s.afterMemRead with col := s.col.set k.toNat (activeSig s.params s.sigLevel) hk.2 }.advance
    | .rdd => t = { s.afterColRead with col := s.col.set 0 (activeCol0 s.params s.col0Level) }.advance
    | .dec => t = { s with cells := decodeCells s.row s.col }.advance
    | .flg => t = { s with flags := presenceFlags s.params s.cells }.advance
    | .capt => t = (if edge s.flags s.prevCaps then s.toggleCaps else s).advance
    | .cmd0 => t = (if chDbg s.flags then { s with dbg := !s.dbg }.confirm .dbgMode (!s.dbg) else s).advance
    | .cmd1 => t = (if chStrm s.flags then { s with strm := !s.strm }.confirm .stream (!s.strm) else s).advance
    | .fmt => t = { s with rpt := format s.params.trailingSpace s.row s.col }.advance
    | .disp => t = (s.emit (frame s.params s.dbg s.rpt s.row s.col)).advance
    | .tx => t = (s.emit (txEvents s.params s.strm s.rpt)).advance
    | .endCycle => t = { s with prevCaps := s.flags.caps, upc := cycleStart }
    | .boot => t = (if s.dispOk then s.afterDispOk.advance else s.afterDispOk.raise .displayInitFailure)
    | .splash => t = (s.emit [.disp (.splash "Ready"), .pause .splash]).advance := by
  cases i <;>
    simp only [exec, execSel, execRdd, execDec, execFlg, execCapt, execCmd0, execCmd1, execFmt, execDisp, execTx,
      execEndCycle, execBoot, execSplash, Host.Outcome.next.injEq] at h
  case rdr r =>
    simp only [execRdr] at h
    split at h
    · rename_i hr
      exact ⟨hr, by simpa using h.symm⟩
    · cases h
  case rdc k =>
    simp only [execRdc] at h
    split at h
    · rename_i hk
      exact ⟨hk, by simpa using h.symm⟩
    · cases h
  all_goals exact h.symm

/-- A running machine at a reserved `UPC` value refuses, whatever its micro-program space lists (R107, D29). -/
theorem step_reserved_address {s : State} (hrun : s.halt = false) (h : 44 ≤ s.upc.toNat) :
    step s = .refused (.reservedAddress s.upc) := by
  simp [step, fetch, hrun, s.readWord_eq_none_iff.mpr h]

/-- A machine with its own micro-program fetches the micro-operation of R94 at `UPC`. -/
theorem fetch_of_microOp {s : State} {i : Instr} (hrun : s.halt = false) (hint : s.ustore = [])
    (hop : microOp s.params s.upc.toNat = some i) (hdec : decode (encode i) = .ok i) : fetch s = .next i := by
  rw [fetch_next_iff]
  refine ⟨hrun, encode i, ?_, hdec⟩
  rw [State.readWord_of_intact hint, microWord, hop]
  rfl

/-! Runs of several steps. -/

theorem runs_zero (s : State) : Runs 0 s s := rfl

theorem runs_one {s t : State} (h : step s = .next t) : Runs 1 s t := by
  have hs : core.step s = .next t := h
  simp [Runs, Host.Core.run, hs]

theorem runs_trans {m n : Nat} {s t u : State} (h1 : Runs m s t) (h2 : Runs n t u) : Runs (m + n) s u := by
  induction m generalizing s with
  | zero =>
    simp only [Runs, Host.Core.run] at h1
    cases h1
    simpa using h2
  | succ m ih =>
    rw [Nat.add_right_comm]
    unfold Runs at *
    simp only [Host.Core.run] at *
    cases hs : core.step s with
    | next v =>
      rw [hs] at h1
      exact ih h1
    | fault f =>
      rw [hs] at h1
      cases h1
    | refused f =>
      rw [hs] at h1
      cases h1

end Sys2Proof.Machine
end

