-- ==== Sys2Proof/Tests/Slice0.lean ====
section
/-!
SUPPORT. The model's own tests: the ill-formed terms, the encodings, one or two steps of each micro-operation, the cycle
function, and a witness for the premises of every statement.
Expected values are those of 95_test_vectors.md (parts 1 and 2), the map of 30_encoding.md, or hand calculation from the rule named.
-/

namespace Sys2Proof.Tests

open Sys2Proof.Machine

/-! ## The fixture of 95_test_vectors.md section 0 -/

/-- `KEYMAP_T`: a symbol `"k<tr>_<tc>"` is `other (12 * tr + tc)`. -/
def keyMapT : Vector (Vector Symbol 12) 5 :=
  Vector.ofFn fun tr => Vector.ofFn fun tc =>
    if tr.val = 4 ∧ tc.val = 0 then .ctrl
    else if tr.val = 4 ∧ tc.val = 1 then .fn
    else if tr.val = 4 ∧ tc.val = 2 then .alt
    else if tr.val = 2 ∧ tc.val = 0 then .caps
    else if tr.val = 2 ∧ tc.val = 3 then .d
    else if tr.val = 3 ∧ tc.val = 6 then .n
    else .other (12 * tr.val + tc.val)

/-- The reference parameters: `ROWCH[r] = r`, `COLCH[k] = k + 4`, trailing space, newline `0x0A`, active `HIGH`. -/
def paramsT : Params where
  rowCh := #v[0, 1, 2, 3, 4]
  colCh := #v[5, 6, 7, 8, 9, 10, 11, 12, 13, 14, 15]
  keyMap := keyMapT
  activeSig := .high
  activeCol0 := .high
  trailingSpace := true
  newline := [0x0A]

/-- `ROW` from `ROWV`. -/
def rowOf (v : Nat) : RowSet := Vector.ofFn fun i => v.testBit i.val

/-- `COL` from `COLV`. -/
def colOf (v : Nat) : ColSet := Vector.ofFn fun i => v.testBit i.val

/-- The reset state under the reference parameters, with an input script. -/
def start (script : List Bool) : State := { State.reset with params := paramsT, script := script }

/-- The start of a cycle, with an input script. -/
def cycleFrom (script : List Bool) : State := { start script with upc := 2 }

/-- One field of the next state. -/
def field {β : Type} (f : State → β) : Host.Outcome State Fault Refusal → Option β
  | .next s => some (f s)
  | .fault _ => none
  | .refused _ => none

/-- Why a step is refused. -/
def refusal : Host.Outcome State Fault Refusal → Option Refusal
  | .next _ => none
  | .fault _ => none
  | .refused why => some why

/-! ## Ill-formed terms (R93) -/

theorem test_illFormed_rdr_refused : ¬ (Instr.rdr 5).WellFormed ∧ ¬ (Instr.rdr 15).WellFormed ∧ (Instr.rdr 4).WellFormed := by decide
theorem test_illFormed_rdc_low_refused : ¬ (Instr.rdc 0).WellFormed ∧ (Instr.rdc 1).WellFormed := by decide
theorem test_illFormed_rdc_high_refused : ¬ (Instr.rdc 12).WellFormed ∧ (Instr.rdc 11).WellFormed := by decide
/-- R8: a key map whose cell `(4, 0)` is not `"ctrl"` is refused. -/
theorem test_illFormed_keyMap_refused :
    ¬ ({ paramsT with keyMap := keyMapT.set 4 (keyMapT[4].set 0 .caps) } : Params).WellFormed ∧ paramsT.WellFormed := by decide

/-! ## Encodings (30_encoding.md section 2; 95_test_vectors.md 2.1) -/

theorem test_decode_sel : [0x00, 0x0B, 0x0F].map (fun w => (decode w).toOption) = [some (.sel 0), some (.sel 11), some (.sel 15)] := by decide
theorem test_decode_rdr : [0x10, 0x14, 0x15, 0x1F].map (fun w => (decode w).toOption) = [some (.rdr 0), some (.rdr 4), none, none] := by decide
theorem test_decode_rdc : [0x20, 0x21, 0x2B, 0x2C].map (fun w => (decode w).toOption) = [none, some (.rdc 1), some (.rdc 11), none] := by decide
theorem test_decode_rdd : (decode 0b00110000).toOption = some .rdd ∧ (decode 0x31).toOption = none := by decide
theorem test_decode_dec : (decode 0b01000000).toOption = some .dec ∧ (decode 0x4F).toOption = none := by decide
theorem test_decode_flg : (decode 0b01010000).toOption = some .flg := by decide
theorem test_decode_capt : (decode 0b01100000).toOption = some .capt := by decide
theorem test_decode_cmd : [0x70, 0x71, 0x72].map (fun w => (decode w).toOption) = [some .cmd0, some .cmd1, none] := by decide
theorem test_decode_fmt : (decode 0b10000000).toOption = some .fmt := by decide
theorem test_decode_disp : (decode 0b10010000).toOption = some .disp := by decide
theorem test_decode_tx : (decode 0b10100000).toOption = some .tx := by decide
theorem test_decode_endCycle : (decode 0b10110000).toOption = some .endCycle ∧ (decode 0xB1).toOption = none := by decide
theorem test_decode_boot : (decode 0b11000000).toOption = some .boot := by decide
theorem test_decode_splash : (decode 0b11010000).toOption = some .splash := by decide
theorem test_decode_reserved : [0xE0, 0xF0, 0xFF].map (fun w => (decode w).toOption) = [none, none, none] := by decide
/-- A table row's word reaches the decoder with its bits numbered as the table numbers them. -/
theorem test_decodeTableWord : decodeTableWord 8 0x2B = some (.rdc 11) ∧ decodeTableWord 8 0x2C = none := by decide

/-- The listing of R95. -/
theorem test_microProgram_listing : (List.range 45).map (microWord paramsT) =
    [some 0xC0, some 0xD0, some 0x00, some 0x10, some 0x01, some 0x11, some 0x02, some 0x12, some 0x03, some 0x13, some 0x04, some 0x14] ++
    [some 0x30] ++
    [some 0x05, some 0x21, some 0x06, some 0x22, some 0x07, some 0x23, some 0x08, some 0x24, some 0x09, some 0x25, some 0x0A, some 0x26] ++
    [some 0x0B, some 0x27, some 0x0C, some 0x28, some 0x0D, some 0x29, some 0x0E, some 0x2A, some 0x0F, some 0x2B] ++
    [some 0x40, some 0x50, some 0x60, some 0x70, some 0x71, some 0x80, some 0x90, some 0xA0, some 0xB0, none] := by decide

/-! ## One step each (95_test_vectors.md part 2) -/

/-- 2.2: `SEL 11` gives `SEL3..SEL0 = HIGH, LOW, HIGH, HIGH`. -/
theorem test_sel_lines : field (fun s => [s.selLine 3, s.selLine 2, s.selLine 1, s.selLine 0]) (exec (.sel 11) (start [])) =
    some [.high, .low, .high, .high] := by decide
/-- R71: selecting the selected address still appends the event. -/
theorem test_sel_event : field (fun s => s.trace) (exec (.sel 0) (start [])) = some [.selWrite 0] := by decide

/-- 2.3: `RDR 2` with `SELR = 9` and an active sample. -/
theorem test_rdr_active : field (fun s => (s.row, s.trace)) (exec (.rdr 2) { start [true] with selr := 9 }) =
    some (rowOf 0x04, [.sampleSig 9 .high]) := by decide
/-- R131: only `ROW[r]` changes, and with `ACTIVE_SIG = LOW` an inactive sample is a `HIGH` level. -/
theorem test_rdr_inactive_low : field (fun s => (s.row, s.trace))
    (exec (.rdr 4) { start [false] with row := rowOf 0x1F, params := { paramsT with activeSig := .low } }) =
    some (rowOf 0x0F, [.sampleSig 0 .high]) := by decide
/-- 2.3: `RDC 11` with `SELR = 15`. -/
theorem test_rdc_active : field (fun s => (s.col, s.trace)) (exec (.rdc 11) { start [true] with selr := 15 }) =
    some (colOf 0x800, [.sampleSig 15 .high]) := by decide
theorem test_rdc_inactive : field (fun s => s.col) (exec (.rdc 1) { start [false] with col := colOf 0xFFF }) = some (colOf 0xFFD) := by decide
/-- 2.3: `RDD`. -/
theorem test_rdd_active : field (fun s => (s.col, s.trace)) (exec .rdd { start [true] with selr := 7 }) =
    some (colOf 0x001, [.sampleCol0 .high]) := by decide
/-- R66: without a script the read still completes, takes one free value and records its sample. -/
theorem test_rdd_free : field (fun s => (s.draws, s.trace.length, s.upc)) (exec .rdd (start [])) = some (1, 1, 1) := by decide

/-- 2.5: `ROWV = 0x05`, `COLV = 0x900`. -/
theorem test_dec_ghosts : field (fun s => pv s.cells) (exec .dec { start [] with row := rowOf 0x05, col := colOf 0x900 }) =
    some 0x009000009000000 := by decide
/-- 2.5: the physical corner `(4, 0)` is cell `(0, 11)`. -/
theorem test_dec_corner : field (fun s => pv s.cells) (exec .dec { start [] with row := rowOf 0x10, col := colOf 0x001 }) =
    some 0x000000000000800 := by decide

/-- 2.6, line 8: a ghost sets `F_CAPS`. -/
theorem test_flg_ghostCaps : field (fun s => s.flags) (exec .flg { start [] with cells := decodeCells (rowOf 0x05) (colOf 0x900) }) =
    some ⟨true, false, false, true, false⟩ := by decide
/-- 2.6, line 7. -/
theorem test_flg_allChords : field (fun s => s.flags) (exec .flg { start [] with cells := decodeCells (rowOf 0x07) (colOf 0x720) }) =
    some ⟨false, true, true, true, true⟩ := by decide

/-- 2.7: press with the latch `ON`. -/
theorem test_capt_press : field (fun s => (s.caps, s.capsOut, s.trace))
    (exec .capt { start [] with flags := ⟨true, false, false, false, false⟩, caps := true, capsOut := .high }) =
    some (false, .low, [.capsOut .low]) := by decide
/-- 2.7: hold. -/
theorem test_capt_hold : field (fun s => (s.caps, s.capsOut, s.trace, s.prevCaps))
    (exec .capt { start [] with flags := ⟨true, false, false, false, false⟩, prevCaps := true }) =
    some (false, .low, [], true) := by decide

/-- 2.8, and the document's own example: `DBG` goes from 1 to 0. -/
theorem test_cmd0_chord : field (fun s => (s.dbg, s.trace)) (exec .cmd0 { start [] with flags := ⟨true, true, true, true, true⟩ }) =
    some (false, [.disp (.confirm .dbgMode false), .pause .confirm]) := by decide
theorem test_cmd0_twoKeys : field (fun s => (s.dbg, s.trace)) (exec .cmd0 { start [] with flags := ⟨true, true, false, true, true⟩ }) =
    some (true, []) := by decide
theorem test_cmd1_chord : field (fun s => (s.strm, s.trace)) (exec .cmd1 { start [] with flags := ⟨false, true, true, false, true⟩ }) =
    some (true, [.disp (.confirm .stream true), .pause .confirm]) := by decide
theorem test_cmd1_debugChordOnly : field (fun s => (s.strm, s.trace)) (exec .cmd1 { start [] with flags := ⟨false, true, true, true, false⟩ }) =
    some (false, []) := by decide

/-- 2.9: `ROWV = 0x12`, `COLV = 0x601`. -/
theorem test_fmt_trailing : field (fun s => s.rpt) (exec .fmt { start [] with row := rowOf 0x12, col := colOf 0x601 }) =
    some [0x52, 0x3A, 0x20, 0x31, 0x20, 0x34, 0x20, 0x2C, 0x20, 0x43, 0x3A, 0x20, 0x30, 0x20, 0x39, 0x20, 0x31, 0x30, 0x20] := by decide
/-- 2.9: the other reading, `"R: 0, C: 11"`. -/
theorem test_fmt_joined : field (fun s => s.rpt)
    (exec .fmt { start [] with row := rowOf 0x01, col := colOf 0x800, params := { paramsT with trailingSpace := false } }) =
    some [0x52, 0x3A, 0x20, 0x30, 0x2C, 0x20, 0x43, 0x3A, 0x20, 0x31, 0x31] := by decide

/-- 2.10: `DBG = 1`, `ROWV = 0x05`, `COLV = 0x900`: the lines `k4_3`, `ctrl`, `d`, `caps`. -/
theorem test_disp_debug : field (fun s => s.trace)
    (exec .disp { start [] with row := rowOf 0x05, col := colOf 0x900, rpt := [0x52] }) =
    some [.disp .clear, .disp (.debugText [0x52]), .disp (.keyLine (.other 51)), .disp (.keyLine .ctrl), .disp (.keyLine .d),
      .disp (.keyLine .caps)] := by decide
/-- 2.10: `DBG = 0`. -/
theorem test_disp_quiet : field (fun s => s.trace) (exec .disp { start [] with row := rowOf 0x01, col := colOf 0x800, dbg := false }) =
    some [.disp .clear, .disp (.keyLine .ctrl)] := by decide

/-- 2.11: the empty report while streaming. -/
theorem test_tx_on : field (fun s => s.trace) (exec .tx { start [] with strm := true }) =
    some [.tx [0x52, 0x3A, 0x20, 0x2C, 0x20, 0x43, 0x3A, 0x20, 0x0A]] := by decide
theorem test_tx_off : field (fun s => s.transmitStream) (exec .tx (start [])) = some [] := by decide

/-- 2.12. -/
theorem test_end : field (fun s => (s.prevCaps, s.upc)) (exec .endCycle { start [] with flags := ⟨true, false, false, false, false⟩, upc := 43 }) =
    some (true, 2) := by decide
theorem test_boot_ok : field (fun s => (s.upc, s.halt, s.cause, s.trace)) (step (start [true])) = some (1, false, 0, [.dispInit true]) := by decide
theorem test_boot_fails : field (fun s => (s.upc, s.halt, s.cause, s.trace)) (step (start [false])) =
    some (0, true, 1, [.dispInit false, .halt 1]) := by decide
theorem test_splash : field (fun s => (s.upc, s.trace)) (exec .splash { start [] with upc := 1 }) =
    some (2, [.disp (.splash "Ready"), .pause .splash]) := by decide

/-- R195: a placed word runs at the next step, here `SEL 15` as the first after reset. -/
theorem test_withFetchWord : field (fun s => (s.selr, s.ustore)) (step ((start []).withFetchWord 8 0x0F)) =
    some (15, [(0, 0x0F)]) := by decide

/-- R107, D29: at a reserved `UPC` value the step refuses even where a cell is listed there, and a word is not placed there. -/
theorem test_reservedAddress_refused : ∀ a ∈ [(44 : UAddr), 63],
    refusal (step { start [] with upc := a, ustore := [(a.toNat, 0xB0)] }) = some (.reservedAddress a) ∧
    ({ start [] with upc := a }.withFetchWord 8 0xB0).ustore = [] := by decide
/-- R94: address 43 is the last that is not reserved. -/
theorem test_lastAddress_runs : field (fun s => s.upc) (step ({ start [] with upc := 43 }.withFetchWord 8 0x50)) = some 44 := by decide

/-! ## The cycle function (95_test_vectors.md part 3) -/

/-- P0's samples: `"ctrl"` held. -/
def ctrlHeld : Vector Bool 17 := #v[true, false, false, false, false, false, false, false, false, false, false, false, false, false, false, false, true]

/-- P2's samples: `fn`, `alt` and `d` held. -/
def debugChordHeld : List Bool :=
  [true, false, true, false, false, false, false, false, false, false, false, false, false, true, true, true, false]

/-- P3's samples: `fn`, `alt` and `n` held. -/
def streamChordHeld : List Bool :=
  [true, true, false, false, false, false, false, false, false, false, true, false, false, false, true, true, false]

/-- P0: 36 events, of which the last three are the frame. -/
theorem test_cycle_P0 : let out := cycle paramsT ⟨false, false, true, false⟩ ctrlHeld
    (out.events.length, out.events.drop 33, out.next) =
      (36, [.disp .clear, .disp (.debugText [0x52, 0x3A, 0x20, 0x30, 0x20, 0x2C, 0x20, 0x43, 0x3A, 0x20, 0x31, 0x31, 0x20]),
        .disp (.keyLine .ctrl)], ⟨false, false, true, false⟩) := by decide

/-- P2, cycles 1 and 2: the held chord turns debugging off and on again (`PSTATE` 0x4, 0x0, 0x4). -/
theorem test_cycle_P2 : (State.afterCycle (cycleFrom debugChordHeld)).pstate = 0x0 ∧
    (State.afterCycle { State.afterCycle (cycleFrom (debugChordHeld ++ debugChordHeld)) with trace := [] }).pstate = 0x4 := by
  decide +kernel

/-- P3, cycle 1: the line is sent in the cycle that turns streaming on (`"R: 0 1 , C: 5 9 10 "` and the newline). -/
theorem test_cycle_P3 : (State.afterCycle (cycleFrom streamChordHeld)).transmitStream =
    [0x52, 0x3A, 0x20, 0x30, 0x20, 0x31, 0x20, 0x2C, 0x20, 0x43, 0x3A, 0x20, 0x35, 0x20, 0x39, 0x20, 0x31, 0x30, 0x20, 0x0A] := by
  decide +kernel

/-! ## Witnesses: the premises of each statement hold together somewhere -/

theorem witness_DecodeOfEncodeIsTheInstruction :
    (Instr.sel 15).WellFormed ∧ (Instr.rdr 0).WellFormed ∧ (Instr.rdr 4).WellFormed ∧ (Instr.rdc 1).WellFormed ∧ (Instr.rdc 11).WellFormed := by decide
theorem witness_DecodedWordIsLegalAndEncodesBack : decode 0x2B = .ok (.rdc 11) := rfl
theorem witness_StepRunsTheDecodedInstruction :
    (start []).halt = false ∧ (start []).readWord (start []).upc.toNat = some 0xC0 ∧ decode 0xC0 = .ok .boot := ⟨rfl, by decide, rfl⟩
theorem witness_ReservedAddress : ∀ a ∈ [(44 : UAddr), 63], { start [] with upc := a }.halt = false ∧ 44 ≤ a.toNat := by decide
theorem witness_ReservedWord : ((start []).withFetchWord 8 0xE0).readWord 0 = some 0xE0 ∧ decode 0xE0 = .error .opCode ∧
    ((start []).withFetchWord 8 0x20).readWord 0 = some 0x20 ∧ decode 0x20 = .error .operand := ⟨by decide, rfl, by decide, rfl⟩
theorem witness_IntactMachineRunsTheMicroProgram : (start []).Intact ∧ { start [] with upc := 43 }.Intact ∧
    { start [] with upc := 43 }.upc.toNat ≤ 43 ∧ { start [] with upc := 43 }.halt = false := ⟨rfl, rfl, by decide, rfl⟩
theorem witness_LegalInstructionsComplete : (Instr.rdc 11).WellFormed ∧ ¬ (Instr.rdc 12).WellFormed := by decide
theorem witness_SelectionLinesCarryTheAddress : ∃ t, exec (.sel 11) (start []) = .next t := ⟨_, rfl⟩
/-- One next state for each kind of `UPC` write. -/
theorem witness_UpcIsWrittenByItsThreeRulesOnly : (∃ t, exec .endCycle (start []) = .next t) ∧
    (∃ t, exec .boot (start [false]) = .next t ∧ (start [false]).dispOk = false) ∧ (∃ t, exec .tx (start []) = .next t) :=
  ⟨⟨_, rfl⟩, ⟨_, rfl, rfl⟩, ⟨_, rfl⟩⟩
theorem witness_RdrOperands : (0 : Arg).toNat < 5 ∧ (4 : Arg).toNat < 5 ∧ 5 ≤ (5 : Arg).toNat ∧ 5 ≤ (15 : Arg).toNat := by decide
theorem witness_RdcOperands : 1 ≤ (1 : Arg).toNat ∧ (11 : Arg).toNat < 12 ∧ (0 : Arg).toNat = 0 ∧ 12 ≤ (12 : Arg).toNat ∧ 12 ≤ (15 : Arg).toNat := by decide
/-- The edge, and a state on each side of it. -/
theorem witness_CaptTogglesOnTheRisingEdgeOnly :
    let s := { start [] with flags := ⟨true, false, false, false, false⟩ }
    (s.flags.caps = true ∧ s.prevCaps = false) ∧ { s with prevCaps := true }.prevCaps = true ∧ (start []).flags.caps = false := by decide
/-- The chords, present and absent. -/
theorem witness_Chords : let s := { start [] with flags := ⟨false, true, true, true, true⟩ }
    (s.flags.fn = true ∧ s.flags.alt = true ∧ s.flags.d = true ∧ s.flags.n = true) ∧
    ¬ ((start []).flags.fn = true ∧ (start []).flags.alt = true ∧ (start []).flags.d = true) ∧
    ¬ ((start []).flags.fn = true ∧ (start []).flags.alt = true ∧ (start []).flags.n = true) := by decide
theorem witness_TxSendsTheLineOnlyWhileStreaming : { start [] with strm := true }.strm = true ∧ (start []).strm = false := ⟨rfl, rfl⟩
theorem witness_BootTakesTheDisplayAnswer : (start [true]).dispOk = true ∧ (start [false]).dispOk = false := ⟨rfl, rfl⟩
/-- A next state of every micro-operation, for the statements whose premise is one. -/
theorem witness_execAnswersNext : ∀ i ∈ [Instr.sel 3, .rdr 4, .rdc 11, .rdd, .dec, .flg, .capt, .cmd0, .cmd1, .fmt, .disp, .tx, .endCycle, .boot, .splash],
    field (fun s => s.draws) (exec i (start [true])) = some 0 := by decide
/-- The premises of the invariants, with a step from them. -/
theorem witness_StepInvariants : (∃ t, step (start [true]) = .next t) ∧ Memory.wf (start [true]).params (start [true]).ustore ∧
    (start [true]).SequencerLegal ∧ (start [true]).CapsShown ∧ (start [true]).Intact ∧ (start [true]).ReportSized := by
  refine ⟨⟨_, rfl⟩, ?_, ⟨rfl, by decide, fun _ => rfl, fun h => absurd h (by decide)⟩, by simp [State.CapsShown, start, State.reset], rfl, ?_⟩
  · decide
  · unfold State.ReportSized
    decide
/-- A read about to happen with its channel selected, and a step from there: `UPC = 3`, `SELR = ROWCH[0]`. -/
theorem witness_StepKeepsSelectBeforeRead : ∃ t, { start [true] with upc := 3 }.ReadsItsChannel ∧ step { start [true] with upc := 3 } = .next t := by
  refine ⟨_, ⟨?_, ?_⟩, rfl⟩ <;> decide
/-- A frame about to be sent with everything computed, and a step from there: `UPC = 41`. -/
theorem witness_StepKeepsPerCycleRegistersComputed : let s := { start [] with upc := 41 }
    s.CycleComputed ∧ ∃ t, step s = .next t := by
  refine ⟨⟨fun _ _ => ?_, fun _ _ => ?_, fun _ _ => ?_⟩, _, rfl⟩ <;> decide
theorem witness_HaltedMachineHasNoStep : { start [] with halt := true, cause := 1 }.halt = true := rfl
theorem witness_AtCycleStart : (cycleFrom []).AtCycleStart ∧ (cycleFrom debugChordHeld).AtCycleStart := ⟨⟨rfl, rfl, rfl⟩, ⟨rfl, rfl, rfl⟩⟩
theorem witness_StartUp : (start [true]).halt = false ∧ (start [true]).Intact ∧ (start [true]).upc = 0 ∧ (start [true]).dispOk = true ∧
    (start [false]).dispOk = false := ⟨rfl, rfl, rfl, rfl, rfl⟩
theorem witness_ScanOps : Instr.rdd ∈ scanOps paramsT ∧ Instr.sel 15 ∈ scanOps paramsT ∧ Instr.rdc 11 ∈ scanOps paramsT := by decide
/-- A step of an intact machine at address 43, and the two start-up addresses. -/
theorem witness_EndClosesTheCycle : let s := { start [] with upc := 43 }
    s.Intact ∧ 2 ≤ s.upc.toNat ∧ (∃ t, step s = .next t) ∧ microOp paramsT 0 = some .boot ∧ microOp paramsT 1 = some .splash :=
  ⟨rfl, by decide, ⟨_, rfl⟩, rfl, rfl⟩
theorem witness_EveryReadDirectlyFollowsItsSelect : microOp paramsT 3 = some (.rdr 0) ∧ microOp paramsT 11 = some (.rdr 4) ∧
    microOp paramsT 14 = some (.rdc 1) ∧ microOp paramsT 34 = some (.rdc 11) := by decide
/-- Two states that carry the same and differ in per-cycle registers and `SELR`. -/
theorem witness_PerCycleRegistersDoNotCarryOver :
    (cycleFrom []).SameCarry { cycleFrom [] with row := rowOf 0x1F, rpt := [], selr := 9 } ∧
    cycleFrom [] ≠ { cycleFrom [] with row := rowOf 0x1F, rpt := [], selr := 9 } := by
  refine ⟨⟨rfl, rfl, rfl, rfl, rfl, rfl, rfl, rfl, rfl, rfl, rfl, rfl, rfl⟩, fun h => ?_⟩
  have : (cycleFrom []).selr = 9 := congrArg State.selr h
  exact absurd this (by decide)
/-- Each chord held for two cycles. -/
theorem witness_HeldChordTogglesInEveryCycle :
    (∀ j < 2, chDbg ((cycleFrom (debugChordHeld ++ debugChordHeld)).afterCycles (j + 1)).flags = true) ∧
    (∀ j < 2, chStrm ((cycleFrom (streamChordHeld ++ streamChordHeld)).afterCycles (j + 1)).flags = true) := by
  decide +kernel
theorem witness_RowZeroColumnElevenIsCtrl : let s := { start [] with row := rowOf 0x01, col := colOf 0x800 }
    s.params.WellFormed ∧ s.row = #v[true, false, false, false, false] ∧
    s.col = #v[false, false, false, false, false, false, false, false, false, false, false, true] := by decide
theorem witness_NoRepeats : paramsT.NoRepeats := by
  unfold Params.NoRepeats
  decide +kernel
theorem witness_NothingActiveReport : (∀ r : Fin 5, (start []).row[r] = false) ∧ ∀ k : Fin 12, (start []).col[k] = false := by decide
theorem witness_ReportLineIsInjective : format false (rowOf 0x12) (colOf 0x601) = format false (rowOf 0x12) (colOf 0x601) := rfl

end Sys2Proof.Tests
end

section
/-!
The micro-program and the parameters under a step: a meaning writes neither, so every word and the key map read as
before (R78).
-/

namespace Sys2Proof.Machine

/-- No micro-operation writes the parameters or the micro-program space (R78). -/
theorem exec_params_ustore {i : Instr} {s t : State} (h : exec i s = .next t) :
    t.params = s.params ∧ t.ustore = s.ustore := by
  have ht := exec_next_cases h
  cases i with
  | rdr r | rdc k =>
    obtain ⟨-, rfl⟩ := ht
    simp
  | capt | cmd0 | cmd1 | boot =>
    -- a toggle, a chord or the display's answer: one state if it fires, another if it does not
    rw [ht]
    split <;> simp
  | sel a | rdd | dec | flg | fmt | disp | tx | endCycle | splash =>
    rw [ht]
    simp

/-- No step writes the parameters or the micro-program space (R78). -/
theorem step_params_ustore {s t : State} (h : step s = .next t) : t.params = s.params ∧ t.ustore = s.ustore := by
  obtain ⟨i, -, hexec⟩ := step_next_iff.mp h
  exact exec_params_ustore hexec

/-- What an address reads as depends on the parameters and the micro-program space alone (R64). -/
theorem State.readWord_congr {s t : State} (hparams : t.params = s.params) (hustore : t.ustore = s.ustore) (a : Nat) :
    t.readWord a = s.readWord a := by
  simp [State.readWord, hparams, hustore]

/-- Settles O29: every meaning leaves the parameters and the micro-program space as they were, and these two are all a
fetch reads. -/
theorem microProgramAndKeyMapAreNeverWritten : Obligations.MicroProgramAndKeyMapAreNeverWritten := by
  intro s t h
  obtain ⟨hparams, hustore⟩ := step_params_ustore h
  exact ⟨State.readWord_congr hparams hustore, congrArg Params.keyMap hparams, hparams, hustore⟩

end Sys2Proof.Machine
end

section
/-!
Where the micro-program's selects and reads stand (R94): row `r` at `2 + 2r` and `3 + 2r`, logical column `j` at
`13 + 2j` and `14 + 2j`.
-/

namespace Sys2Proof.Machine

theorem microOp_rowSelect (p : Params) (r : Fin 5) : microOp p (2 + 2 * r.val) = some (.sel p.rowCh[r]) := by
  fin_cases r <;> rfl

theorem microOp_colSelect (p : Params) (j : Fin 11) : microOp p (13 + 2 * j.val) = some (.sel p.colCh[j]) := by
  fin_cases j <;> rfl

/-- The micro-program's reads stand directly after its selects, and nowhere else: an `RDR` at `3 + 2r` with operand `r`,
an `RDC` at `14 + 2j` with operand `j + 1`. -/
theorem microOp_read_address {p : Params} {a : Nat} {i : Instr} : microOp p a = some i →
    match i with
    | .rdr x => ∃ r : Fin 5, a = 3 + 2 * r.val ∧ x = BitVec.ofNat 4 r.val
    | .rdc x => ∃ j : Fin 11, a = 14 + 2 * j.val ∧ x = BitVec.ofNat 4 (j.val + 1)
    | _ => True := by
  intro h
  unfold microOp at h
  split_ifs at h
  -- the branches of the table in address order: the reads give the index, every other branch holds no read
  · cases h; trivial
  · cases h; trivial
  · cases h; trivial
  · cases h
    exact ⟨⟨(a - 3) / 2, by omega⟩, by dsimp only; omega, rfl⟩
  · cases h; trivial
  · cases h; trivial
  · cases h
    exact ⟨⟨(a - 14) / 2, by omega⟩, by dsimp only; omega, congrArg (BitVec.ofNat 4) (by dsimp only; omega)⟩
  · split at h <;> cases h <;> trivial

/-- Settles O47: the read's operand gives its address, and the word before that address selects the channel. -/
theorem everyReadDirectlyFollowsItsSelect : Obligations.EveryReadDirectlyFollowsItsSelect := by
  refine ⟨fun p a r h => ?_, fun p a j h => ?_, fun p a x h => ?_, fun p a x h => ?_⟩
  · obtain ⟨r', rfl, hr⟩ := microOp_read_address h
    obtain rfl : r = r' := by bv_omega
    refine ⟨by omega, ?_⟩
    rw [show 3 + 2 * r.val - 1 = 2 + 2 * r.val by omega]
    exact microOp_rowSelect p r
  · obtain ⟨j', rfl, hj⟩ := microOp_read_address h
    obtain rfl : j = j' := by bv_omega
    refine ⟨by omega, ?_⟩
    rw [show 14 + 2 * j.val - 1 = 13 + 2 * j.val by omega]
    exact microOp_colSelect p j
  · obtain ⟨r, -, hx⟩ := microOp_read_address h
    exact ⟨r, hx⟩
  · obtain ⟨j, -, hx⟩ := microOp_read_address h
    exact ⟨j, hx⟩

end Sys2Proof.Machine
end

section
/-!
The scan as a run (R94, R144): where a machine that scans stands and which answers it still takes, what each of its three
parts (`SCANROW`, `RDD`, `SCANCOL`) loads, and the two loops made of them.
-/

namespace Sys2Proof.Machine

theorem decode_encode_of_wellFormed {i : Instr} (h : i.WellFormed) : decode (encode i) = .ok i := by
  cases i with
  | sel x =>
    clear h
    revert x
    decide
  | rdr x | rdc x =>
    revert x
    decide
  | rdd | dec | flg | capt | cmd0 | cmd1 | fmt | disp | tx | endCycle | boot | splash => rfl

/-- A running machine with its own micro-program stands at address `a`, and its script holds `answers`. -/
structure State.Awaits (s : State) (a : Nat) (answers : List Bool) : Prop where
  running : s.halt = false
  intact : s.Intact
  upc : s.upc = BitVec.ofNat 6 a
  script : s.script = answers

theorem State.Awaits.step_eq_exec {s : State} {a : Nat} {answers : List Bool} {i : Instr} (h : s.Awaits a answers)
    (ha : a ≤ 43) (hop : microOp s.params a = some i) : step s = exec i s := by
  obtain ⟨j, hj, hwf⟩ := microOp_legal s.params ha
  obtain rfl : j = i := Option.some.inj (hj.symm.trans hop)
  refine step_of_fetch (fetch_of_microOp h.running h.intact ?_ (decode_encode_of_wellFormed hwf))
  rwa [h.upc, BitVec.toNat_ofNat, Nat.mod_eq_of_lt (by omega)]

theorem State.Awaits.advance {s : State} {a : Nat} {answers : List Bool} (h : s.Awaits a answers) :
    s.advance.Awaits (a + 1) answers where
  running := h.running
  intact := h.intact
  upc := by simp [h.upc, BitVec.ofNat_add]
  script := h.script

theorem State.Awaits.takeAnswer {s : State} {a : Nat} {b : Bool} {rest : List Bool} (h : s.Awaits a (b :: rest)) :
    s.takeAnswer.Awaits a rest where
  running := h.running
  intact := h.intact
  upc := h.upc
  script := by rw [State.takeAnswer_script, h.script, List.tail_cons]

theorem State.Awaits.nextAnswer {s : State} {a : Nat} {b : Bool} {rest : List Bool} (h : s.Awaits a (b :: rest))
    (line : InputLine) : s.nextAnswer line = b := by
  rw [State.nextAnswer, h.script]

/-! What the reads of the scan answer: their operands are in range, so none is refused. -/

theorem exec_rdr_row (r : Fin 5) (s : State) : exec (.rdr (BitVec.ofNat 4 r.val)) s =
    .next { s.afterMemRead with row := s.row.set r.val (s.nextAnswer (.sig s.selr)) }.advance := by
  have hr : (BitVec.ofNat 4 r.val).toNat = r.val := by
    rw [BitVec.toNat_ofNat]
    omega
  simp [exec, execRdr, hr]

theorem exec_rdc_col (j : Fin 11) (s : State) : exec (.rdc (BitVec.ofNat 4 (j.val + 1))) s =
    .next { s.afterMemRead with col := s.col.set (j.val + 1) (s.nextAnswer (.sig s.selr)) }.advance := by
  have hj : (BitVec.ofNat 4 (j.val + 1)).toNat = j.val + 1 := by
    rw [BitVec.toNat_ofNat]
    omega
  have hlt : j.val + 1 < 12 := by omega
  simp [exec, execRdc, hj, hlt]

theorem microOp_rowRead (p : Params) (r : Fin 5) :
    microOp p (3 + 2 * r.val) = some (.rdr (BitVec.ofNat 4 r.val)) := by
  fin_cases r <;> rfl

theorem microOp_colRead (p : Params) (j : Fin 11) :
    microOp p (14 + 2 * j.val) = some (.rdc (BitVec.ofNat 4 (j.val + 1))) := by
  fin_cases j <;> rfl

/-- A `SEL` and the read directly after it run in two steps to the state `t` that the read leaves. -/
theorem runs_selectAndRead {s t : State} {a : Nat} {ch : ChanAddr} {i : Instr} {answers : List Bool}
    (h : s.Awaits a answers) (ha : a + 1 ≤ 43) (hsel : microOp s.params a = some (.sel ch))
    (hread : microOp s.params (a + 1) = some i)
    (hexec : exec i ({ s with selr := ch }.emit [.selWrite ch]).advance = .next t) : Runs 2 s t := by
  have hselected : ({ s with selr := ch }.emit [.selWrite ch]).Awaits a answers := { h with }
  have hfirst : step s = .next ({ s with selr := ch }.emit [.selWrite ch]).advance := h.step_eq_exec (by omega) hsel
  exact runs_trans (runs_one hfirst) (runs_one ((hselected.advance.step_eq_exec ha hread).trans hexec))

/-- `SCANROW r` loads the next answer into `ROW[r]` (R142). -/
theorem runs_scanRow (r : Fin 5) {s : State} {b : Bool} {rest : List Bool} (h : s.Awaits (2 + 2 * r.val) (b :: rest)) :
    ∃ t, Runs 2 s t ∧ t.Awaits (2 + 2 * (r.val + 1)) rest ∧ t.row = s.row.set r.val b ∧ t.col = s.col := by
  refine ⟨_, runs_selectAndRead h (by omega) (microOp_rowSelect s.params r) ?_ (exec_rdr_row r _), ?_, ?_, rfl⟩
  · rw [show 2 + 2 * r.val + 1 = 3 + 2 * r.val by omega]
    exact microOp_rowRead s.params r
  · exact { h.takeAnswer.advance.advance with }
  · exact congrArg (s.row.set r.val) (h.nextAnswer _)

/-- `SCANCOL k` loads the next answer into `COL[k]`, `k = j + 1` (R143). -/
theorem runs_scanCol (j : Fin 11) {s : State} {b : Bool} {rest : List Bool} (h : s.Awaits (13 + 2 * j.val) (b :: rest)) :
    ∃ t, Runs 2 s t ∧ t.Awaits (13 + 2 * (j.val + 1)) rest ∧ t.row = s.row ∧ t.col = s.col.set (j.val + 1) b := by
  refine ⟨_, runs_selectAndRead h (by omega) (microOp_colSelect s.params j) ?_ (exec_rdc_col j _), ?_, rfl, ?_⟩
  · rw [show 13 + 2 * j.val + 1 = 14 + 2 * j.val by omega]
    exact microOp_colRead s.params j
  · exact { h.takeAnswer.advance.advance with }
  · exact congrArg (s.col.set (j.val + 1)) (h.nextAnswer _)

/-- `RDD` loads the next answer into `COL[0]` (R140). -/
theorem runs_rdd {s : State} {b : Bool} {rest : List Bool} (h : s.Awaits 12 (b :: rest)) :
    ∃ t, Runs 1 s t ∧ t.Awaits 13 rest ∧ t.row = s.row ∧ t.col = s.col.set 0 b := by
  refine ⟨_, runs_one (h.step_eq_exec (by omega) rfl), { h.takeAnswer.advance with }, rfl, ?_⟩
  exact congrArg (s.col.set 0) ((activeCol0_col0Level s).trans (h.nextAnswer _))

/-- A loop of `n` rounds of `c` steps each, with an invariant that each round carries on. -/
theorem exists_runs_of_rounds {c n : Nat} {inv : Nat → State → Prop}
    (hround : ∀ (i : Fin n) (s : State), inv i s → ∃ t, Runs c s t ∧ inv (i + 1) t) {s : State} (h : inv 0 s) :
    ∃ t, Runs (c * n) s t ∧ inv n t := by
  induction n with
  | zero => exact ⟨s, runs_zero s, h⟩
  | succ n ih =>
    obtain ⟨t, hruns, ht⟩ := ih fun i => hround i.castSucc
    obtain ⟨u, hlast, hu⟩ := hround (Fin.last n) t ht
    exact ⟨u, runs_trans hruns hlast, hu⟩

/-- The first `n` bits of `v` are those of `w`. -/
def AgreeBelow {size : Nat} (n : Nat) (v w : Vector Bool size) : Prop := ∀ (k : Nat) (_ : k < size), k < n → v[k] = w[k]

theorem agreeBelow_zero {size : Nat} (v w : Vector Bool size) : AgreeBelow 0 v w := fun k _ hk => absurd hk k.not_lt_zero

theorem AgreeBelow.set {size n : Nat} {v w : Vector Bool size} (h : AgreeBelow n v w) (hn : n < size) :
    AgreeBelow (n + 1) (v.set n w[n]) w := by
  intro k hk hle
  rw [Vector.getElem_set]
  split
  · subst k
    rfl
  · exact h k hk (by omega)

theorem AgreeBelow.eq {size : Nat} {v w : Vector Bool size} (h : AgreeBelow size v w) : v = w :=
  Vector.ext fun k hk => h k hk hk

theorem drop_toList_append {size n : Nat} (v : Vector Bool size) (hn : n < size) (rest : List Bool) :
    v.toList.drop n ++ rest = v[n] :: (v.toList.drop (n + 1) ++ rest) := by
  rw [List.drop_eq_getElem_cons (by simpa using hn), Vector.getElem_toList, List.cons_append]

/-- Before round `r` of the row loop: the rows below `r` hold what `row` says, and the answers for the others are to come. -/
def RowsLoaded (row : RowSet) (rest : List Bool) (r : Nat) (s : State) : Prop :=
  s.Awaits (2 + 2 * r) (row.toList.drop r ++ rest) ∧ AgreeBelow r s.row row

/-- Before round `j` of the column loop: `ROW` is `row`, the columns 0 to `j` hold what `col` says, and the answers for the
others are to come. -/
def ColsLoaded (row : RowSet) (col : ColSet) (rest : List Bool) (j : Nat) (s : State) : Prop :=
  s.Awaits (13 + 2 * j) (col.toList.drop (j + 1) ++ rest) ∧ s.row = row ∧ AgreeBelow (j + 1) s.col col

/-- Five rounds of `SCANROW` load the answers that list `row` into `ROW`. -/
theorem exists_runs_rowsLoaded {row : RowSet} {rest : List Bool} {s : State} (h : s.Awaits 2 (row.toList ++ rest)) :
    ∃ t, Runs 10 s t ∧ t.Awaits 12 rest ∧ t.row = row := by
  have hround (r : Fin 5) (u : State) (hu : RowsLoaded row rest r u) :
      ∃ t, Runs 2 u t ∧ RowsLoaded row rest (r + 1) t := by
    obtain ⟨hawaits, hrow⟩ := hu
    rw [drop_toList_append row r.isLt] at hawaits
    obtain ⟨t, hruns, ht, hset, -⟩ := runs_scanRow r hawaits
    exact ⟨t, hruns, ht, hset ▸ hrow.set r.isLt⟩
  obtain ⟨t, hruns, ht, hrow⟩ := exists_runs_of_rounds hround ⟨h, agreeBelow_zero s.row row⟩
  exact ⟨t, hruns, by rwa [List.drop_eq_nil_of_le (by simp)] at ht, hrow.eq⟩

/-- `RDD` and eleven rounds of `SCANCOL` load the answers that list `col` into `COL`. -/
theorem exists_runs_colsLoaded {col : ColSet} {rest : List Bool} {s : State} (h : s.Awaits 12 (col.toList ++ rest)) :
    ∃ t, Runs 23 s t ∧ t.row = s.row ∧ t.col = col := by
  have hround (j : Fin 11) (u : State) (hu : ColsLoaded s.row col rest j u) :
      ∃ t, Runs 2 u t ∧ ColsLoaded s.row col rest (j + 1) t := by
    obtain ⟨hawaits, hrow, hcol⟩ := hu
    rw [drop_toList_append col (Nat.succ_lt_succ j.isLt)] at hawaits
    obtain ⟨t, hruns, ht, hrow', hset⟩ := runs_scanCol j hawaits
    exact ⟨t, hruns, ht, hrow'.trans hrow, hset ▸ hcol.set (Nat.succ_lt_succ j.isLt)⟩
  have hdirect : s.Awaits 12 (col[0] :: (col.toList.drop 1 ++ rest)) := by
    rw [← drop_toList_append (n := 0) col (by decide)]
    exact h
  obtain ⟨t, hrdd, ht, hrow, hset⟩ := runs_rdd hdirect
  have hcol0 : AgreeBelow 1 t.col col :=
    hset ▸ (agreeBelow_zero s.col col).set (by omega)
  obtain ⟨u, hruns, -, hrow', hcol⟩ := exists_runs_of_rounds hround ⟨ht, hrow, hcol0⟩
  exact ⟨u, runs_trans hrdd hruns, hrow', hcol.eq⟩

/-- No micro-operation of the scan is refused, and none writes `HALT` or `CAUSE` (R145). -/
theorem exec_scanOps {s : State} {i : Instr} (h : i ∈ scanOps s.params) :
    ∃ t, exec i s = .next t ∧ t.halt = s.halt ∧ t.cause = s.cause := by
  simp only [scanOps, scanRow, scanCol, List.mem_append, List.mem_flatMap, List.mem_cons, List.not_mem_nil, or_false] at h
  rcases h with (⟨r, -, rfl | rfl⟩ | rfl) | ⟨j, -, rfl | rfl⟩
  · exact ⟨_, rfl, rfl, rfl⟩
  · exact ⟨_, exec_rdr_row r s, rfl, rfl⟩
  · exact ⟨_, rfl, rfl, rfl⟩
  · exact ⟨_, rfl, rfl, rfl⟩
  · exact ⟨_, exec_rdc_col j s, rfl, rfl⟩

/-- Settles O46: the reads of the scan have their operands in range, and the answers that list `row` and then `col` load
exactly this pair. -/
theorem everyScanResultCanOccur : Obligations.EveryScanResultCanOccur := by
  refine ⟨fun s i => exec_scanOps, fun s row col hstart => ?_⟩
  obtain ⟨hrun, hintact, hupc⟩ := hstart
  have hawaits : State.Awaits { s with script := row.toList ++ col.toList ++ s.script } 2
      (row.toList ++ (col.toList ++ s.script)) := ⟨hrun, hintact, hupc, List.append_assoc ..⟩
  obtain ⟨t, hrows, ht, hrow⟩ := exists_runs_rowsLoaded hawaits
  obtain ⟨u, hcols, hrow', hcol⟩ := exists_runs_colsLoaded ht
  exact ⟨_, u, runs_trans hrows hcols, hrow'.trans hrow, hcol⟩

end Sys2Proof.Machine
end

section
/-!
The Key Decoder (R150, R152, R155): which cells `DEC` presses, how many they are, and the symbols of the active pairs.
-/

namespace Sys2Proof.Machine

/-- Settles O16: both readings are the cell law, the second at the reversed indices, which a second reversal undoes. -/
theorem decPressesExactlyTheActivePairs : Obligations.DecPressesExactlyTheActivePairs := by
  refine ⟨rfl, fun s => ⟨_, rfl, rfl, decodeCells_cell s.row s.col, fun r k => ?_⟩⟩
  have hcell : (decodeCells s.row s.col)[revRow r][revCol k] = (s.row[r] && s.col[k]) := by
    simp only [decodeCells_cell, revRow_revRow, revCol_revCol]
  exact (Bool.eq_iff_iff.mp hcell).trans (Bool.and_eq_true_iff ..)

/-! Counting the 1 bits of a list (R11). -/

/-- The law of R152 on bit lists: the conjunctions of a bit of `xs` with a bit of `ys`. -/
theorem countBits_conjunctions (xs ys : List Bool) :
    countBits (xs.flatMap fun x => ys.map (x && ·)) = countBits xs * countBits ys := by
  simp only [countBits]
  induction xs with
  | nil => simp
  | cons x xs ih =>
    rw [List.flatMap_cons, List.count_append, ih]
    cases x with
    | false => simp [List.count_replicate]
    | true => simp [Nat.add_mul, Nat.add_comm]

theorem countBits_toList_le {n : Nat} (bits : Vector Bool n) : countBits bits.toList ≤ n := by
  simpa [countBits] using List.count_le_length (a := true) (l := bits.toList)

theorem length_filter_eq_countBits {α : Type} (p : α → Bool) (l : List α) :
    (l.filter p).length = countBits (l.map p) := by
  rw [countBits, List.count, List.countP_map, ← List.countP_eq_length_filter]
  simp [Function.comp_def]

/-! The bits of a set in their order, and in the order of the key map's cells (R73(b)). -/

theorem toList_eq_map_finRange {n : Nat} (bits : Vector Bool n) :
    bits.toList = (List.finRange n).map fun i => bits[i] :=
  List.ext_getElem (by simp) fun i _ _ => by simp

theorem toList_reverse_eq_map_rev {n : Nat} (bits : Vector Bool n) :
    bits.toList.reverse = (List.finRange n).map fun i => bits[i.rev] := by
  rw [toList_eq_map_finRange, ← List.map_reverse, List.finRange_reverse, List.map_map]
  rfl

theorem revRow_eq_rev (r : Fin 5) : revRow r = r.rev := by
  apply Fin.ext
  simp only [revRow, Fin.val_rev]
  omega

theorem revCol_eq_rev (k : Fin 12) : revCol k = k.rev := by
  apply Fin.ext
  simp only [revCol, Fin.val_rev]
  omega

/-! How many cells are pressed (R152). -/

/-- The cells of `P` in their order are the conjunctions of the row bits with the column bits, both read from the last
to the first (R73(b), R150). -/
theorem decodeCells_toList (row : RowSet) (col : ColSet) : (decodeCells row col).toList.flatMap Vector.toList =
    row.toList.reverse.flatMap fun b => col.toList.reverse.map (b && ·) := by
  simp only [toList_reverse_eq_map_rev, decodeCells, revRow_eq_rev, revCol_eq_rev, Vector.toList_ofFn, List.ofFn_eq_map,
    List.flatMap_map, List.map_map, Function.comp_def]

theorem countCells_decodeCells (row : RowSet) (col : ColSet) :
    countCells (decodeCells row col) = countBits row.toList * countBits col.toList := by
  rw [countCells, decodeCells_toList, countBits_conjunctions]
  simp only [countBits, List.count_reverse]

/-! The active pairs and their symbols (R155). -/

/-- The active pairs are picked from all sixty pairs, listed row by row. -/
theorem activePairs_eq_filter (row : RowSet) (col : ColSet) : activePairs row col =
    (List.finRange 5 ×ˢ List.finRange 12).filter fun rk => row[rk.1] && col[rk.2] := by
  simp only [activePairs, SProd.sprod, List.product, List.filter_flatMap, List.filter_map, Function.comp_def]

theorem length_activePairs (row : RowSet) (col : ColSet) :
    (activePairs row col).length = countBits row.toList * countBits col.toList := by
  rw [activePairs_eq_filter, length_filter_eq_countBits, ← countBits_conjunctions]
  simp only [SProd.sprod, List.product, toList_eq_map_finRange, List.map_flatMap, List.flatMap_map, List.map_map,
    Function.comp_def]

theorem activePairs_nodup (row : RowSet) (col : ColSet) : (activePairs row col).Nodup := by
  rw [activePairs_eq_filter]
  exact ((List.nodup_finRange 5).product (List.nodup_finRange 12)).filter _

theorem mem_pressedList {p : Params} {row : RowSet} {col : ColSet} {x : Symbol} :
    x ∈ pressedList p row col ↔ SymbolPressed p (decodeCells row col) x := by
  simp only [pressedList, List.mem_map, Prod.exists, mem_activePairs, SymbolPressed, decodeCells_cell, Bool.and_eq_true]
  constructor
  · rintro ⟨r, k, hactive, hkey⟩
    exact ⟨revRow r, revCol k, by simpa only [revRow_revRow, revCol_revCol] using hactive, hkey⟩
  · rintro ⟨tr, tc, hpressed, hkey⟩
    exact ⟨revRow tr, revCol tc, hpressed, by simpa only [keyAt, keyRead, revRow_revRow, revCol_revCol] using hkey⟩

/-- A key map that repeats no symbol gives different pairs different symbols (R153). -/
theorem keyAt_injective_of_noRepeats {p : Params} (h : p.NoRepeats) :
    Function.Injective fun rk : Fin 5 × Fin 12 => keyAt p rk.1 rk.2 := by
  rintro ⟨r, k⟩ ⟨r', k'⟩ hkey
  obtain ⟨hr, hk⟩ := h _ _ _ _ hkey
  have hr' : r = r' := by simpa only [revRow_revRow] using congrArg revRow hr
  have hk' : k = k' := by simpa only [revCol_revCol] using congrArg revCol hk
  rw [hr', hk']

/-- Settles O55: the pressed cells and the active pairs are each as many as the product, the reversal of the indices
matches them, and without repeats different pairs list different symbols. -/
theorem pressedCountIsTheProduct : Obligations.PressedCountIsTheProduct := by
  intro s
  have hcells := countCells_decodeCells s.row s.col
  have hpairs := length_activePairs s.row s.col
  refine ⟨_, rfl, hcells, ?_, ?_, fun x => mem_pressedList, fun h => ?_⟩
  · exact hcells.trans_le (Nat.mul_le_mul (countBits_toList_le s.row) (countBits_toList_le s.col))
  · exact (List.length_map _).trans (hpairs.trans hcells.symm)
  · exact (activePairs_nodup s.row s.col).map (keyAt_injective_of_noRepeats h)

end Sys2Proof.Machine
end

section
/-!
The persistent bits `CAPS`, `PREVCAPS`, `DBG` and `STRM` (R31, R172): which micro-operation writes each, and how often the
writers stand in a cycle.
-/

namespace Sys2Proof.Machine

/-- Each persistent bit has one writer: `CAPT`, `END`, `CMD 0`, `CMD 1` (R172). -/
theorem exec_persistent_bits {i : Instr} {s t : State} (h : exec i s = .next t) :
    (i ≠ .capt → t.caps = s.caps) ∧ (i ≠ .endCycle → t.prevCaps = s.prevCaps) ∧
    (i ≠ .cmd0 → t.dbg = s.dbg) ∧ (i ≠ .cmd1 → t.strm = s.strm) := by
  have ht := exec_next_cases h
  cases i with
  | rdr r | rdc k =>
    obtain ⟨-, rfl⟩ := ht
    simp
  | capt | cmd0 | cmd1 | boot =>
    -- a writer's own bit is exempt; every other bit is kept on both branches
    rw [ht]
    split <;> simp
  | sel a | rdd | dec | flg | fmt | disp | tx | endCycle | splash =>
    rw [ht]
    simp

/-- The scan is made of selects and reads alone (R111). -/
theorem scanOps_select_or_read {p : Params} {i : Instr} (h : i ∈ scanOps p) :
    (∃ a, i = .sel a) ∨ (∃ r, i = .rdr r) ∨ (∃ k, i = .rdc k) ∨ i = .rdd := by
  simp only [scanOps, scanRow, scanCol, List.mem_append, List.mem_flatMap, List.mem_cons, List.not_mem_nil, or_false] at h
  rcases h with (⟨r, -, rfl | rfl⟩ | rfl) | ⟨j, -, rfl | rfl⟩ <;> simp

theorem persistentWriter_notMem_scanOps {p : Params} {i : Instr} (h : i ∈ [Instr.capt, .endCycle, .cmd0, .cmd1]) :
    i ∉ scanOps p := by
  intro hmem
  rcases scanOps_select_or_read hmem with ⟨a, rfl⟩ | ⟨r, rfl⟩ | ⟨k, rfl⟩ | rfl <;> simp at h

/-- The nine words of a cycle after its scan (R111). -/
def afterScanOps : List Instr := [.dec] ++ engineOps ++ [.fmt, .disp, .tx, .endCycle]

theorem cycleOps_eq (p : Params) : cycleOps p = scanOps p ++ afterScanOps := by
  simp [cycleOps, afterScanOps]

theorem count_cycleOps_of_notMem_scanOps {p : Params} {i : Instr} (h : i ∉ scanOps p) :
    (cycleOps p).count i = afterScanOps.count i := by
  rw [cycleOps_eq, List.count_append, List.count_eq_zero_of_not_mem h, Nat.zero_add]

/-- A writer of a persistent bit stands once in a cycle (R172). -/
theorem count_cycleOps_persistentWriter (p : Params) {i : Instr} (h : i ∈ [Instr.capt, .endCycle, .cmd0, .cmd1]) :
    (cycleOps p).count i = 1 := by
  rw [count_cycleOps_of_notMem_scanOps (persistentWriter_notMem_scanOps h)]
  revert i
  decide

/-- Settles O30: every meaning keeps the bits it is not the writer of, and each writer is one of the nine words after the
scan. -/
theorem persistentBitsHaveOneWriterEach : Obligations.PersistentBitsHaveOneWriterEach := by
  refine ⟨fun _ _ _ => exec_persistent_bits, fun p => ⟨?_, ?_, ?_, ?_⟩⟩ <;>
    exact count_cycleOps_persistentWriter p (by simp)

end Sys2Proof.Machine
end

section
/-!
The report line of a cycle with nothing active (R182).
-/

namespace Sys2Proof.Machine

theorem activeIndices_eq_nil {n : Nat} {bits : Vector Bool n} (h : ∀ i : Fin n, bits[i] = false) :
    activeIndices bits = [] := by
  refine List.eq_nil_iff_forall_not_mem.mpr fun i hi => ?_
  obtain ⟨hlt, hbit⟩ := mem_activeIndices.mp hi
  exact Bool.false_ne_true ((h ⟨i, hlt⟩).symm.trans hbit)

/-- Both readings of R186 list no index as no byte. -/
@[simp] theorem indexList_nil (trailing : Bool) : indexList trailing [] = [] := by
  cases trailing <;> rfl

/-- With no index listed the line is its two labels. -/
theorem format_eq_labels {row : RowSet} {col : ColSet} (hrow : activeIndices row = []) (hcol : activeIndices col = [])
    (trailing : Bool) : format trailing row col = rowLabel ++ colLabel := by
  simp only [format, hrow, hcol, indexList_nil, List.append_nil]

/-- Settles O57: no bit active, no index listed, so `FMT` joins the two labels. -/
theorem nothingActiveReport : Obligations.NothingActiveReport := by
  intro s hrow hcol
  exact ⟨_, rfl, format_eq_labels (activeIndices_eq_nil hrow) (activeIndices_eq_nil hcol) s.params.trailingSpace⟩

end Sys2Proof.Machine
end

section
/-!
The sequencer (R94, R195): where the words that are no part of the scan or of the engine stand, that a legal
micro-operation completes, and what it writes to `UPC` and `HALT`.
-/

namespace Sys2Proof.Machine

/-- `BOOT`, `SPLASH`, `TX` and `END` stand at one address each (R94). -/
theorem microOp_once_address {p : Params} {a : Nat} {i : Instr} : microOp p a = some i →
    match i with
    | .boot => a = 0
    | .splash => a = 1
    | .tx => a = 42
    | .endCycle => a = 43
    | _ => True := by
  intro h
  unfold microOp at h
  split_ifs at h
  -- the branches of the table in address order: the two start-up words, five of the scan, the words after the scan
  · cases h
    assumption
  · cases h
    dsimp only
    omega
  · cases h; trivial
  · cases h; trivial
  · cases h; trivial
  · cases h; trivial
  · cases h; trivial
  · split at h <;> cases h <;> trivial

theorem exec_completes_of_wellFormed {i : Instr} (h : i.WellFormed) (s : State) : ∃ t, exec i s = .next t := by
  cases i with
  | rdr r =>
    have hr : r.toNat < 5 := Nat.lt_succ_of_le (of_decide_eq_true h)
    exact ⟨_, dif_pos hr⟩
  | rdc k =>
    have hk : 1 ≤ k.toNat ∧ k.toNat ≤ 11 := by simpa [Instr.WellFormed, Instr.wellFormed] using h
    exact ⟨_, dif_pos ⟨hk.1, Nat.lt_succ_of_le hk.2⟩⟩
  | sel a | rdd | dec | flg | capt | cmd0 | cmd1 | fmt | disp | tx | endCycle | boot | splash => exact ⟨_, rfl⟩

/-- The three kinds of `UPC` write (R195), and that `BOOT` alone writes `HALT` (R41). -/
theorem exec_upc_halt {i : Instr} {s t : State} (h : exec i s = .next t) :
    t.upc = (if i = .endCycle then cycleStart else if i = .boot ∧ s.dispOk = false then s.upc else s.upc + 1) ∧
    (i ≠ .boot → t.halt = s.halt) := by
  have ht := exec_next_cases h
  cases i with
  | rdr r | rdc k =>
    obtain ⟨-, rfl⟩ := ht
    simp
  | capt | cmd0 | cmd1 =>
    rw [ht]
    split <;> simp
  | boot =>
    cases hok : s.dispOk <;> simp [ht, hok]
  | sel a | rdd | dec | flg | fmt | disp | tx | endCycle | splash =>
    rw [ht]
    simp

/-- A step starts from an address that holds a word, so `UPC + 1` does not wrap, and no rule writes an address below 2. -/
theorem step_two_le_upc {s t : State} (hs : 2 ≤ s.upc.toNat) (h : step s = .next t) : 2 ≤ t.upc.toNat := by
  obtain ⟨i, hfetch, hexec⟩ := step_next_iff.mp h
  obtain ⟨-, w, hword, -⟩ := fetch_next_iff.mp hfetch
  obtain ⟨hupc, -⟩ := exec_upc_halt hexec
  have hheld : ¬ 44 ≤ s.upc.toNat := fun hle => by simp [s.readWord_eq_none_iff.mpr hle] at hword
  rw [hupc]
  split_ifs
  · decide
  · exact hs
  · bv_omega

/-- Settles O25: the table gives `BOOT` and `SPLASH` their one address each, and a step never goes below address 2. -/
theorem endClosesTheCycle : Obligations.EndClosesTheCycle := by
  refine ⟨rfl, fun _ => rfl, fun p => microOp_rowSelect p 0, fun p a => ⟨microOp_once_address, microOp_once_address⟩, ?_⟩
  exact fun s t _ => step_two_le_upc

end Sys2Proof.Machine
end

section
/-!
The transmit stream (R38, R198): `TX` alone writes it, and a cycle up to its `TX` leaves it as it was.
-/

namespace Sys2Proof.Machine

/-- Appended events that are no `Tx` leave the lines of the transmit stream as they were (R38). -/
theorem State.txLines_of_trace_append {s t : State} {es : List Event} (htrace : t.trace = s.trace ++ es)
    (hsilent : ∀ bytes, .tx bytes ∉ es) : t.txLines = s.txLines := by
  unfold State.txLines
  rw [htrace, List.filterMap_append, List.append_right_eq_self, List.filterMap_eq_nil_iff]
  intro e he
  cases e with
  | tx bytes => exact absurd he (hsilent bytes)
  | _ => rfl

theorem tx_notMem_frame (p : Params) (dbg : Bool) (rpt : List Byte) (row : RowSet) (col : ColSet) (bytes : List Byte) :
    .tx bytes ∉ frame p dbg rpt row col := by
  cases dbg <;> simp [frame, keyLines]

/-- A meaning appends events to the trace, and none of them is a `Tx` unless it is that of `TX` while streaming (R198). -/
theorem exec_trace_append_silent {i : Instr} {s t : State} (h : exec i s = .next t) (hi : i ≠ .tx ∨ s.strm = false) :
    ∃ es, t.trace = s.trace ++ es ∧ ∀ bytes, .tx bytes ∉ es := by
  have ht := exec_next_cases h
  cases i with
  | rdr r | rdc k =>
    obtain ⟨-, rfl⟩ := ht
    exact ⟨_, rfl, by simp⟩
  | capt | cmd0 | cmd1 =>
    rw [ht]
    split
    · exact ⟨_, rfl, by simp⟩
    · exact ⟨[], by simp, by simp⟩
  | boot =>
    rw [ht]
    split
    · exact ⟨_, rfl, by simp⟩
    · exact ⟨_, List.append_assoc .., by simp⟩
  | tx =>
    have hoff : s.strm = false := by simpa using hi
    exact ⟨txEvents s.params s.strm s.rpt, by rw [ht]; rfl, by simp [txEvents, hoff]⟩
  | disp => exact ⟨_, by rw [ht]; rfl, tx_notMem_frame s.params s.dbg s.rpt s.row s.col⟩
  | sel a | rdd | splash =>
    rw [ht]
    exact ⟨_, rfl, by simp⟩
  | dec | flg | fmt | endCycle =>
    rw [ht]
    exact ⟨[], by simp, by simp⟩

theorem exec_transmitStream_of_silent {i : Instr} {s t : State} (h : exec i s = .next t) (hi : i ≠ .tx ∨ s.strm = false) :
    t.transmitStream = s.transmitStream := by
  obtain ⟨es, htrace, hsilent⟩ := exec_trace_append_silent h hi
  exact congrArg List.flatten (State.txLines_of_trace_append htrace hsilent)

/-- From each address of a cycle before `END`'s, the next step runs the table's word and moves on by one address. -/
theorem State.Awaits.exists_next {s : State} {a : Nat} {answers : List Bool} (h : s.Awaits a answers) (hlow : 2 ≤ a)
    (hhigh : a < 43) : ∃ i t, microOp s.params a = some i ∧ exec i s = .next t ∧ Runs 1 s t ∧ t.Awaits (a + 1) t.script := by
  obtain ⟨i, hop, hwf⟩ := microOp_legal s.params (by omega : a ≤ 43)
  obtain ⟨t, hexec⟩ := exec_completes_of_wellFormed hwf s
  obtain ⟨hupc, hhalt⟩ := exec_upc_halt hexec
  have hboot : i ≠ .boot := by
    rintro rfl
    have : a = 0 := microOp_once_address hop
    omega
  have hend : i ≠ .endCycle := by
    rintro rfl
    have : a = 43 := microOp_once_address hop
    omega
  refine ⟨i, t, hop, hexec, runs_one ((h.step_eq_exec (by omega) hop).trans hexec), ?_⟩
  exact {
    running := (hhalt hboot).trans h.running
    intact := (exec_params_ustore hexec).2.trans h.intact
    upc := by simp [hupc, hboot, hend, h.upc, BitVec.ofNat_add]
    script := rfl }

/-- `k` words into a cycle that began at `s`, nothing has been sent since. -/
def NothingSentSince (s : State) (k : Nat) (u : State) : Prop :=
  u.Awaits (2 + k) u.script ∧ u.transmitStream = s.transmitStream

/-- The forty steps of a cycle before its `TX` send nothing. -/
theorem exists_runs_beforeTx {s : State} (h : s.AtCycleStart) : ∃ t, Runs 40 s t ∧ NothingSentSince s 40 t := by
  obtain ⟨hrun, hintact, hupc⟩ := h
  have hround (k : Fin 40) (u : State) (hu : NothingSentSince s k u) :
      ∃ t, Runs 1 u t ∧ NothingSentSince s (k + 1) t := by
    obtain ⟨hawaits, hsent⟩ := hu
    obtain ⟨i, t, hop, hexec, hruns, ht⟩ := hawaits.exists_next (by omega) (by omega)
    have htx : i ≠ .tx := by
      rintro rfl
      have : 2 + k.val = 42 := microOp_once_address hop
      omega
    exact ⟨t, hruns, ht, (exec_transmitStream_of_silent hexec (.inl htx)).trans hsent⟩
  exact exists_runs_of_rounds hround ⟨⟨hrun, hintact, hupc, rfl⟩, rfl⟩

/-- Settles O34: the words before `TX` send nothing, `TX` sends nothing while `STRM` is 0, and neither `TX` nor `END`
writes `STRM`. -/
theorem nothingIsTransmittedWhileStreamingIsOff : Obligations.NothingIsTransmittedWhileStreamingIsOff := by
  refine ⟨fun _ _ _ => exec_transmitStream_of_silent, fun s hstart => ?_⟩
  obtain ⟨u, hbefore, hu, hsent⟩ := exists_runs_beforeTx hstart
  obtain ⟨i, v, hop, htx, hrunsTx, hv⟩ := hu.exists_next (by omega) (by omega)
  obtain rfl : .tx = i := Option.some.inj hop
  have hend : exec .endCycle v = .next { v with prevCaps := v.flags.caps, upc := cycleStart } := rfl
  have hrunsEnd := runs_one ((hv.step_eq_exec (by omega) rfl).trans hend)
  refine ⟨_, runs_trans (runs_trans hbefore hrunsTx) hrunsEnd, fun hoff => ?_⟩
  obtain ⟨-, -, -, hstrm⟩ := exec_persistent_bits htx
  calc
    _ = v.transmitStream := exec_transmitStream_of_silent hend (by simp)
    _ = u.transmitStream := exec_transmitStream_of_silent htx (.inr ((hstrm (by simp)).symm.trans hoff))
    _ = s.transmitStream := hsent

end Sys2Proof.Machine
end

section
/-!
The encoding (R91 to R93, R107, R112): decoding and encoding undo each other on the legal micro-operations, and which words
are legal.
-/

namespace Sys2Proof.Machine

/-- Settles O1: on the operand's every legal value where there is an operand, by evaluation where there is none. -/
theorem decodeOfEncodeIsTheInstruction : Obligations.DecodeOfEncodeIsTheInstruction :=
  fun _ => decode_encode_of_wellFormed

/-- A word is its two fields put together (R91). -/
theorem wordOf_fields (w : Word) : wordOf (w.extractLsb' 4 4) (argField w) = w := by
  revert w
  decide

theorem wordOf_eq_of_fields {w : Word} {op : BitVec 4} {arg : Arg} (hop : opField w = op.toNat) (harg : argField w = arg) :
    wordOf op arg = w := by
  obtain rfl : w.extractLsb' 4 4 = op := BitVec.eq_of_toNat_eq hop
  rw [← harg, wordOf_fields]

theorem noOperand_eq_ok {arg : Arg} {i j : Instr} : noOperand arg i = .ok j ↔ arg = 0 ∧ i = j := by
  unfold noOperand
  split
  · simp [*]
  · exact ⟨nofun, fun ⟨harg, _⟩ => absurd harg ‹_›⟩

/-- A word that decodes has the legal fields of its row of R92, and the row puts them together again. -/
theorem decode_sound {w : Word} {i : Instr} (h : decode w = .ok i) : i.WellFormed ∧ encode i = w := by
  simp only [decode] at h
  split at h
  case h_1 hop =>
    cases h
    exact ⟨rfl, wordOf_eq_of_fields hop rfl⟩
  case h_2 hop | h_3 hop =>
    -- `RDR` and `RDC`: the range that the decoder checks is the legal one
    split at h <;> cases h
    rename_i hrange
    exact ⟨by simpa [Instr.WellFormed, Instr.wellFormed] using hrange, wordOf_eq_of_fields hop rfl⟩
  case h_8 hop =>
    split_ifs at h with hzero hone <;> cases h
    · exact ⟨rfl, wordOf_eq_of_fields hop hzero⟩
    · exact ⟨rfl, wordOf_eq_of_fields hop hone⟩
  case h_4 hop | h_5 hop | h_6 hop | h_7 hop | h_9 hop | h_10 hop | h_11 hop | h_12 hop | h_13 hop | h_14 hop =>
    obtain ⟨hzero, rfl⟩ := noOperand_eq_ok.mp h
    exact ⟨rfl, wordOf_eq_of_fields hop hzero⟩
  case h_15 => cases h

/-- Settles O2: the row of the opcode map is found by `op`, and `arg` was checked against its range. -/
theorem decodedWordIsLegalAndEncodesBack : Obligations.DecodedWordIsLegalAndEncodesBack :=
  fun _ _ => decode_sound

/-- Settles O3: the rows of the opcode map one by one; the two counts are of the 256 words. -/
theorem legalWordsAreExactlyThe44 : Obligations.LegalWordsAreExactlyThe44 := by
  refine ⟨fun w => ?_, rfl, rfl⟩
  simp only [decode]
  split
  case h_1 hop => simp [hop]
  case h_2 hop | h_3 hop => split <;> simp_all
  case h_8 hop =>
    split_ifs with hzero hone
    · simp [hop, hzero]
    · simp [hop, hone]
    · have hlarge : ¬ (argField w).toNat ≤ 1 := by bv_omega
      simp [hop, hlarge]
  case h_4 hop | h_5 hop | h_6 hop | h_7 hop | h_9 hop | h_10 hop | h_11 hop | h_12 hop | h_13 hop | h_14 hop =>
    simp [noOperand_eq_ok, hop, BitVec.toNat_eq]
  case h_15 =>
    simp only [imp_false] at *
    simp only [reduceCtorEq, exists_false, false_iff, List.mem_cons, List.not_mem_nil, or_false]
    omega

/-- Settles O4: each word is looked up in the map. -/
theorem wordsWrittenFromTheMapDecode : Obligations.WordsWrittenFromTheMapDecode := by
  repeat' constructor

end Sys2Proof.Machine
end

section
/-!
The sequencer (R107, R193, R195): which micro-operation a step runs, what stops it, and which states it keeps legal.
-/

namespace Sys2Proof.Machine

/-- Settles O5: the fetch of a running machine is the decoded word. -/
theorem stepRunsTheDecodedInstruction : Obligations.StepRunsTheDecodedInstruction :=
  fun _ _ _ hrun hword hdec => step_of_fetch (fetch_next_iff.mpr ⟨hrun, _, hword, hdec⟩)

/-- Settles O6: the step refuses what its fetch refuses, and the micro-program's words are legal. -/
theorem reservedWordsAndAddressesAreRefused : Obligations.ReservedWordsAndAddressesAreRefused := by
  refine ⟨fun s => step_reserved_address, ?_, fun s a => s.readWord_eq_none_iff, fun p a ha => ?_⟩
  · intro s w why hrun hword hdec
    simp [step, fetch, hrun, hword, hdec]
  · obtain ⟨i, hop, hwf⟩ := microOp_legal p ha
    exact ⟨i, hop, hwf, decode_encode_of_wellFormed hwf⟩

/-- Settles O7: address by address below 44, and neither side holds anything from 44 on. -/
theorem microProgramIsStartupThenCycle : Obligations.MicroProgramIsStartupThenCycle := by
  intro p a
  by_cases ha : 44 ≤ a
  · rw [microOp_none p ha]
    exact (List.getElem?_eq_none ha).symm
  · interval_cases a <;> rfl

/-- A running machine with its own micro-program fetches the word of R94 at `UPC`. -/
theorem State.Intact.fetch_eq {s : State} (hintact : s.Intact) (hrun : s.halt = false) (hupc : s.upc.toNat ≤ 43) :
    ∃ i, microOp s.params s.upc.toNat = some i ∧ fetch s = .next i := by
  obtain ⟨i, hop, hwf⟩ := microOp_legal s.params hupc
  exact ⟨i, hop, fetch_of_microOp hrun hintact hop (decode_encode_of_wellFormed hwf)⟩

/-- Settles O8: the step is the meaning of the fetched word. -/
theorem intactMachineRunsTheMicroProgram : Obligations.IntactMachineRunsTheMicroProgram := by
  intro s hintact hrun hupc
  obtain ⟨i, hop, hfetch⟩ := hintact.fetch_eq hrun hupc
  exact ⟨i, hop, step_of_fetch hfetch⟩

theorem exec_refused_of_not_wellFormed {i : Instr} (h : ¬ i.WellFormed) (s : State) :
    exec i s = .refused (.reservedOperand i) := by
  cases i with
  | rdr r =>
    have hr : ¬ r.toNat < 5 := fun hlt => h (decide_eq_true (Nat.le_of_lt_succ hlt))
    exact dif_neg hr
  | rdc k =>
    have hk : ¬ (1 ≤ k.toNat ∧ k.toNat < 12) := fun ⟨hlow, hhigh⟩ =>
      h (by simpa [Instr.WellFormed, Instr.wellFormed] using ⟨hlow, Nat.le_of_lt_succ hhigh⟩)
    exact dif_neg hk
  | sel a | rdd | dec | flg | capt | cmd0 | cmd1 | fmt | disp | tx | endCycle | boot | splash => exact absurd rfl h

/-- Settles O9: the operand's range is all a meaning asks. -/
theorem legalInstructionsComplete : Obligations.LegalInstructionsComplete :=
  fun _ s => ⟨fun h => exec_completes_of_wellFormed h s, fun h => exec_refused_of_not_wellFormed h s⟩

/-- Settles O10: the three kinds of write as `exec_upc_halt` says them. -/
theorem upcIsWrittenByItsThreeRulesOnly : Obligations.UpcIsWrittenByItsThreeRulesOnly :=
  fun _ _ _ h => (exec_upc_halt h).1

/-- What a machine with its own micro-program fetches is the word of R94 at `UPC`, which is in 0..43. -/
theorem State.Intact.microOp_of_fetch {s : State} (hintact : s.Intact) {i : Instr} (h : fetch s = .next i) :
    s.upc.toNat ≤ 43 ∧ microOp s.params s.upc.toNat = some i := by
  obtain ⟨hrun, w, hword, -⟩ := fetch_next_iff.mp h
  have hupc : s.upc.toNat ≤ 43 := by
    by_contra hle
    simp [s.readWord_eq_none_iff.mpr (by omega : 44 ≤ s.upc.toNat)] at hword
  obtain ⟨j, hop, hfetch⟩ := hintact.fetch_eq hrun hupc
  obtain rfl : j = i := Host.Outcome.next.inj (hfetch.symm.trans h)
  exact ⟨hupc, hop⟩

end Sys2Proof.Machine
end

section
/-!
The write ports (R45): which registers a micro-operation leaves as they were.
-/

namespace Sys2Proof.Machine

/-- `t` differs from `s` at most in the registers that `i` is a writer of (R45). -/
structure WritePorts (i : Instr) (s t : State) : Prop where
  selr : (∀ a, i ≠ .sel a) → t.selr = s.selr
  row : ∀ r : Fin 5, i ≠ .rdr (BitVec.ofNat 4 r.val) → t.row[r] = s.row[r]
  col0 : i ≠ .rdd → t.col[0] = s.col[0]
  col : ∀ k : Fin 12, 1 ≤ k.val → i ≠ .rdc (BitVec.ofNat 4 k.val) → t.col[k] = s.col[k]
  cells : i ≠ .dec → t.cells = s.cells
  flags : i ≠ .flg → t.flags = s.flags
  capsOut : i ≠ .capt → t.capsOut = s.capsOut
  rpt : i ≠ .fmt → t.rpt = s.rpt
  stop : i ≠ .boot → t.halt = s.halt ∧ t.cause = s.cause
  inputs : i ≠ .rdd → i ≠ .boot → (∀ a, i ≠ .rdr a) → (∀ a, i ≠ .rdc a) → t.script = s.script ∧ t.draws = s.draws

theorem exec_writePorts {i : Instr} {s t : State} (h : exec i s = .next t) : WritePorts i s t := by
  have ht := exec_next_cases h
  cases i with
  | rdr x =>
    obtain ⟨hx, rfl⟩ := ht
    constructor
    case row =>
      intro r hr
      have hne : x.toNat ≠ r.val := fun heq => hr (by simp [← heq])
      simp [hne]
    all_goals simp
  | rdc x =>
    obtain ⟨hx, rfl⟩ := ht
    constructor
    case col0 =>
      have hne : x.toNat ≠ 0 := by omega
      simp [hne]
    case col =>
      intro k _ hk
      have hne : x.toNat ≠ k.val := fun heq => hk (by simp [← heq])
      simp [hne]
    all_goals simp
  | rdd =>
    rw [ht]
    constructor
    case col =>
      intro k hk _
      have hne : 0 ≠ k.val := by omega
      simp [hne]
    all_goals simp
  | capt | cmd0 | cmd1 | boot =>
    rw [ht]
    split <;> constructor <;> simp
  | sel a | dec | flg | fmt | disp | tx | endCycle | splash =>
    rw [ht]
    constructor <;> simp

end Sys2Proof.Machine
end

section
/-!
One micro-operation each: the whole next state of the selects and reads, the engine, the formatter, the sinks and the
start-up (R130 to R140, R160 to R163, R180, R190, R191, R193, R194).
-/

namespace Sys2Proof.Machine

/-! The operand's place in its word (R91, R93). -/

theorem toNat_wordOf (op : BitVec 4) (arg : Arg) : (wordOf op arg).toNat = 16 * op.toNat + arg.toNat := by
  revert op arg
  decide

/-! The Multiplexer Driver and the Matrix Scanner. -/

theorem bitLevel_eq_low (b : Bool) : bitLevel b = .low ↔ b = false := by
  cases b <;> simp [bitLevel]

/-- Settles O11: `SEL` is its own equation, and no other micro-operation has a write port to `SELR`. -/
theorem selWritesTheSelectionRegister : Obligations.SelWritesTheSelectionRegister :=
  ⟨fun a _ => ⟨toNat_wordOf 0 a, rfl, fun _ => bitLevel_eq_high _⟩, fun _ _ _ hi h => (exec_writePorts h).selr hi⟩

/-- Settles O12: the bit of the selected address is its quotient's parity. -/
theorem selectionLinesCarryTheAddress : Obligations.SelectionLinesCarryTheAddress := by
  intro a s t h
  obtain rfl : _ = t := Host.Outcome.next.inj h
  have hbit (i : Fin 4) : a.getLsbD i.val = decide (a.toNat / 2 ^ i.val % 2 = 1) := Nat.testBit_eq_decide_div_mod_eq
  refine ⟨fun i => (bitLevel_eq_high _).trans ?_, fun i => (bitLevel_eq_low _).trans ?_⟩ <;>
    simp only [State.advance_selr, State.emit_selr, hbit, decide_eq_true_eq, decide_eq_false_iff_not, Nat.mod_two_ne_one]

/-- Settles O13: in range the read is the sample of the signal line, and either level is the level of some answer. -/
theorem rdrSamplesTheSignalLineIntoItsRow : Obligations.RdrSamplesTheSignalLineIntoItsRow := by
  refine ⟨fun r s hr => ⟨toNat_wordOf 1 r, dif_pos hr⟩, fun s l => ?_, fun r s hr => dif_neg (by omega)⟩
  exact levelFor_surjective s.params.activeSig l

/-- Settles O14: as for a row, with column 0 out of range too. -/
theorem rdcSamplesTheSignalLineIntoItsColumn : Obligations.RdcSamplesTheSignalLineIntoItsColumn := by
  refine ⟨fun k s hhigh hlow => ⟨toNat_wordOf 2 k, dif_pos ⟨hlow, hhigh⟩⟩, fun k s hk => dif_neg (by omega)⟩

/-- Settles O15: the read names the direct line alone. -/
theorem rddSamplesTheDirectColumn : Obligations.RddSamplesTheDirectColumn :=
  ⟨rfl, fun _ => rfl, fun s => levelFor_surjective s.params.activeCol0, fun _ _ => rfl⟩

/-! The Toggle & Command Engine. -/

/-- Settles O17: presence is a pressed cell that holds the symbol. -/
theorem flgSetsTheFlagsOfPressedSymbols : Obligations.FlgSetsTheFlagsOfPressedSymbols :=
  ⟨rfl, fun _ => ⟨_, rfl, rfl, present_iff, present_iff, present_iff, present_iff, present_iff⟩⟩

theorem bitLevel_not (b : Bool) : bitLevel (!b) = if b then .low else .high := by
  cases b <;> rfl

/-- Settles O18: the edge decides between the toggle and nothing. -/
theorem captTogglesOnTheRisingEdgeOnly : Obligations.CaptTogglesOnTheRisingEdgeOnly := by
  refine ⟨rfl, fun s => ⟨fun h => ?_, fun h => ?_⟩⟩
  · have hedge : edge s.flags s.prevCaps = true := by simpa [edge] using h
    simp only [exec, execCapt, if_pos hedge, ← bitLevel_not]
    rfl
  · have hedge : ¬ edge s.flags s.prevCaps = true := by
      rcases h with h | h <;> simp [edge, h]
    simp only [exec, execCapt, if_neg hedge]
    rfl

theorem chDbg_iff {f : Flags} : chDbg f = true ↔ f.fn = true ∧ f.alt = true ∧ f.d = true := by
  simp [chDbg, and_assoc]

theorem chStrm_iff {f : Flags} : chStrm f = true ↔ f.fn = true ∧ f.alt = true ∧ f.n = true := by
  simp [chStrm, and_assoc]

theorem exec_cmd0_of_chord {s : State} (h : chDbg s.flags = true) : exec .cmd0 s = .next { s with
    dbg := !s.dbg, trace := s.trace ++ [.disp (.confirm .dbgMode (!s.dbg)), .pause .confirm], upc := s.upc + 1 } := by
  simp only [exec, execCmd0, if_pos h]
  rfl

theorem exec_cmd1_of_chord {s : State} (h : chStrm s.flags = true) : exec .cmd1 s = .next { s with
    strm := !s.strm, trace := s.trace ++ [.disp (.confirm .stream (!s.strm)), .pause .confirm], upc := s.upc + 1 } := by
  simp only [exec, execCmd1, if_pos h]
  rfl

/-- Settles O19: the debug chord decides. -/
theorem cmdZeroTogglesDebugOnItsChord : Obligations.CmdZeroTogglesDebugOnItsChord := by
  refine ⟨rfl, fun s => ⟨fun h => exec_cmd0_of_chord (chDbg_iff.mpr h), fun h => ?_⟩⟩
  simp only [exec, execCmd0, if_neg (chDbg_iff.not.mpr h)]
  rfl

/-- Settles O20: the stream chord decides. -/
theorem cmdOneTogglesStreamingOnItsChord : Obligations.CmdOneTogglesStreamingOnItsChord := by
  refine ⟨rfl, fun s => ⟨fun h => exec_cmd1_of_chord (chStrm_iff.mpr h), fun h => ?_⟩⟩
  simp only [exec, execCmd1, if_neg (chStrm_iff.not.mpr h)]
  rfl

/-- Settles O21: `CMD 0` leaves the flags, so the stream chord still stands for `CMD 1`. -/
theorem bothChordsFireInOneCycle : Obligations.BothChordsFireInOneCycle := by
  intro s hfn halt hd hn
  refine ⟨_, exec_cmd0_of_chord (chDbg_iff.mpr ⟨hfn, halt, hd⟩), ?_⟩
  refine (exec_cmd1_of_chord ?_).trans ?_
  · exact chStrm_iff.mpr ⟨hfn, halt, hn⟩
  · simp only [List.append_assoc, List.cons_append, List.nil_append]

/-! The Report Formatter. -/

/-- The joined reading puts a space between two indices (R186). -/
theorem indexList_false_cons_cons (i j : Nat) (is : List Nat) :
    indexList false (i :: j :: is) = decNumeral i ++ [0x20] ++ indexList false (j :: is) := by
  simp [indexList]

/-- Settles O22: `FMT`'s own state, and the two readings of a list as they are defined. -/
theorem fmtBuildsTheReportLine : Obligations.FmtBuildsTheReportLine := by
  refine ⟨rfl, fun _ => rfl, fun _ => rfl, fun i j is => ⟨rfl, ?_, indexList_false_cons_cons i j is⟩⟩
  simp [indexList]

/-! The sinks and the start-up. -/

/-- The active pairs are listed rows outer and columns inner, both ascending (R190). -/
theorem activePairs_pairwise (row : RowSet) (col : ColSet) :
    (activePairs row col).Pairwise fun x y => x.1 < y.1 ∨ (x.1 = y.1 ∧ x.2 < y.2) := by
  have hall : (List.finRange 5 ×ˢ List.finRange 12).Pairwise fun x y => x.1 < y.1 ∨ (x.1 = y.1 ∧ x.2 < y.2) := by
    decide
  rw [activePairs_eq_filter]
  exact hall.filter _

/-- Settles O23: the frame, whose key lines are the symbols of the active pairs. -/
theorem dispSendsTheFrame : Obligations.DispSendsTheFrame := by
  refine ⟨rfl, fun s => ?_, fun row col => ⟨activePairs_pairwise row col, fun r k => mem_activePairs⟩⟩
  simp only [exec, execDisp, State.emit, State.advance, frame, keyLines, pressedList, List.map_map, List.append_assoc]
  rfl

/-- Settles O24: `STRM` decides between one line and none. -/
theorem txSendsTheLineOnlyWhileStreaming : Obligations.TxSendsTheLineOnlyWhileStreaming := by
  refine ⟨rfl, fun s => ⟨fun h => ?_, fun h => ?_⟩⟩ <;>
    simp [exec, execTx, State.emit, State.advance, txEvents, h]

theorem exec_boot_of_ok {s : State} (h : s.dispOk = true) : exec .boot s = .next { s with
    script := s.script.tail, draws := if s.script.isEmpty then s.draws + 1 else s.draws
    trace := s.trace ++ [.dispInit true], upc := s.upc + 1 } := by
  simp only [exec, execBoot, State.afterDispOk, h]
  rfl

theorem exec_boot_of_failure {s : State} (h : s.dispOk = false) : exec .boot s = .next { s with
    script := s.script.tail, draws := if s.script.isEmpty then s.draws + 1 else s.draws
    halt := true, cause := 1, trace := s.trace ++ [.dispInit false, .halt 1] } := by
  simp [exec, execBoot, State.afterDispOk, h, State.raise, State.emit, State.takeAnswer, Exc.code]

/-- Settles O26: the display's answer decides. -/
theorem bootTakesTheDisplayAnswer : Obligations.BootTakesTheDisplayAnswer :=
  ⟨rfl, fun _ => exec_boot_of_ok, fun _ => exec_boot_of_failure, fun _ _ => rfl⟩

/-- Settles O27: the meaning is two events and the next address. -/
theorem splashShowsReadyAndPauses : Obligations.SplashShowsReadyAndPauses :=
  ⟨rfl, fun _ => rfl⟩

end Sys2Proof.Machine
end

section
/-!
The report line (R98, R104, R181 to R186): the index lists, the length of the line in both readings, and that the line
tells every pair of sets apart.
-/

namespace Sys2Proof.Machine

/-! Index reversal and the document's example (R98). -/

/-- Settles O53: both reversals undo themselves; the corners are evaluated. -/
theorem reversalIsABijection : Obligations.ReversalIsABijection :=
  ⟨fun r k => ⟨rfl, rfl, revRow_revRow r, revCol_revCol k⟩, rfl, rfl, rfl, rfl⟩

/-- Row 0 and column 11 press the one cell `(4, 0)` and are the one active pair. -/
theorem pressed_of_row_zero_column_eleven (tr : Fin 5) (tc : Fin 12) :
    (decodeCells #v[true, false, false, false, false]
      #v[false, false, false, false, false, false, false, false, false, false, false, true])[tr][tc] = true ↔
      tr = 4 ∧ tc = 0 := by
  revert tr tc
  decide

/-- Settles O54: of the sixty pairs the corner alone is active, and its cell is the one the key map fixes. -/
theorem rowZeroColumnElevenIsCtrl : Obligations.RowZeroColumnElevenIsCtrl := by
  intro s hctrl hrow hcol
  refine ⟨_, rfl, ?_, ?_⟩
  · simpa only [State.advance_cells, hrow, hcol] using pressed_of_row_zero_column_eleven
  · have hpairs : activePairs s.row s.col = [(0, 11)] := by
      rw [hrow, hcol]
      decide
    rw [pressedList, hpairs]
    exact congrArg (fun x => [x]) hctrl

/-- Settles O56: one digit below ten; the two numerals of two digits are evaluated. -/
theorem decimalNumeralsOfTheIndices : Obligations.DecimalNumeralsOfTheIndices := by
  refine ⟨fun i hi => ?_, rfl, rfl⟩
  rw [decNumeral, if_pos hi, digit, BitVec.ofNat_add]
  rfl

/-! Index lists (R183). -/

theorem activeIndices_ascending {n : Nat} (bits : Vector Bool n) : (activeIndices bits).Pairwise (· < ·) :=
  (List.pairwise_lt_finRange n).filter _ |>.map Fin.val fun _ _ h => h

theorem activeIndices_lt {n : Nat} {bits : Vector Bool n} {i : Nat} (h : i ∈ activeIndices bits) : i < n :=
  (mem_activeIndices.mp h).1

/-- The active indices of a set tell which set it is. -/
theorem activeIndices_injective {n : Nat} : Function.Injective (activeIndices (n := n)) := by
  intro bits bits' h
  refine Vector.ext fun i hi => Bool.eq_iff_iff.mpr ?_
  have hmem : i ∈ activeIndices bits ↔ i ∈ activeIndices bits' := by rw [h]
  simpa [mem_activeIndices, hi] using hmem

/-! The bytes of an index list: digits and spaces alone. -/

theorem digit_of_mem_decNumeral {i : Nat} (hi : i < 12) {b : Byte} (h : b ∈ decNumeral i) : 0x30 ≤ b := by
  have hall : ∀ b ∈ decNumeral i, 0x30 ≤ b := by
    interval_cases i <;> decide
  exact hall b h

theorem decNumeral_ne_nil (i : Nat) : decNumeral i ≠ [] := by
  unfold decNumeral
  split <;> simp

theorem space_notMem_decNumeral {i : Nat} (hi : i < 12) : (0x20 : Byte) ∉ decNumeral i :=
  fun h => absurd (digit_of_mem_decNumeral hi h) (by decide)

/-- No two indices have the same numeral. -/
theorem decNumeral_injective {i j : Nat} (hi : i < 12) (hj : j < 12) (h : decNumeral i = decNumeral j) : i = j := by
  revert h
  interval_cases i <;> interval_cases j <;> decide

/-- With trailing spaces an index is its numeral and a space (R181). -/
theorem indexList_true_cons (i : Nat) (is : List Nat) :
    indexList true (i :: is) = decNumeral i ++ 0x20 :: indexList true is := by
  simp [indexList]

/-- The two readings differ in the space after the last index alone (R186). -/
theorem indexList_true_eq_false_append {is : List Nat} (h : is ≠ []) :
    indexList true is = indexList false is ++ [0x20] := by
  induction is with
  | nil => contradiction
  | cons i is ih =>
    cases is with
    | nil => simp [indexList]
    | cons j is =>
      rw [indexList_false_cons_cons, List.append_assoc, ← ih (by simp), indexList_true_cons, List.append_assoc]
      rfl

theorem mem_indexList {trailing : Bool} {is : List Nat} (his : ∀ i ∈ is, i < 12) {b : Byte}
    (h : b ∈ indexList trailing is) : b = 0x20 ∨ 0x30 ≤ b := by
  have htrue : b ∈ indexList true is := by
    cases trailing with
    | true => exact h
    | false =>
      have hne : is ≠ [] := by
        rintro rfl
        simp at h
      rw [indexList_true_eq_false_append hne]
      exact List.mem_append_left _ h
  simp only [indexList, if_true, List.mem_flatMap, List.mem_append, List.mem_singleton] at htrue
  obtain ⟨i, hi, hdigit | hspace⟩ := htrue
  · exact .inr (digit_of_mem_decNumeral (his i hi) hdigit)
  · exact .inl hspace

theorem activeIndices_row_lt {row : RowSet} : ∀ i ∈ activeIndices row, i < 12 :=
  fun _ h => (activeIndices_lt h).trans (by decide)

theorem activeIndices_col_lt {col : ColSet} : ∀ i ∈ activeIndices col, i < 12 :=
  fun _ h => activeIndices_lt h

/-- Settles O58: the line is its labels, digits and spaces, and none of these is the newline byte. -/
theorem reportListsTheActiveIndicesAscending : Obligations.ReportListsTheActiveIndicesAscending := by
  refine ⟨fun n bits => ⟨activeIndices_ascending bits, fun i => mem_activeIndices⟩, fun trailing row col h => ?_⟩
  simp only [format, List.mem_append] at h
  rcases h with ((hlabel | hrow) | hlabel) | hcol
  · exact absurd hlabel (by decide)
  · exact absurd (mem_indexList activeIndices_row_lt hrow) (by decide)
  · exact absurd hlabel (by decide)
  · exact absurd (mem_indexList activeIndices_col_lt hcol) (by decide)

/-! The length of the line (R184). -/

theorem length_decNumeral (i : Nat) : (decNumeral i).length = if 10 ≤ i then 2 else 1 := by
  unfold decNumeral
  split
  · rw [if_neg (by omega)]; rfl
  · rw [if_pos (by omega)]; rfl

/-- Every index costs a digit and a space, an index of two digits one more (R184). -/
theorem length_indexList_true (is : List Nat) :
    (indexList true is).length = 2 * is.length + is.countP (10 ≤ ·) := by
  induction is with
  | nil => rfl
  | cons i is ih =>
    rw [indexList_true_cons, List.length_append, List.length_cons, ih, length_decNumeral, List.countP_cons, List.length_cons]
    by_cases hi : 10 ≤ i
    · simp only [hi, decide_true, if_true]
      omega
    · simp only [hi, decide_false, Bool.false_eq_true, if_false]
      omega

theorem length_indexList_false (is : List Nat) : (indexList false is).length = (indexList true is).length - 1 := by
  by_cases h : is = []
  · simp [h]
  · simp [indexList_true_eq_false_append h]

theorem length_activeIndices {n : Nat} (bits : Vector Bool n) : (activeIndices bits).length = countBits bits.toList := by
  rw [activeIndices, List.length_map, length_filter_eq_countBits, toList_eq_map_finRange]

/-- No row has an index of two digits. -/
theorem countP_twoDigits_row (row : RowSet) : (activeIndices row).countP (10 ≤ ·) = 0 := by
  refine List.countP_eq_zero.mpr fun i hi => ?_
  have hlt := activeIndices_lt hi
  rw [decide_eq_true_eq]
  omega

/-- The columns with an index of two digits are those from 10 on. -/
theorem countP_twoDigits_col (col : ColSet) : (activeIndices col).countP (10 ≤ ·) = countBits (col.toList.drop 10) := by
  have hdrop : (List.finRange 12).drop 10 = (List.finRange 12).filter (10 ≤ ·.val) := by decide
  rw [toList_eq_map_finRange, ← List.map_drop, hdrop, countBits, List.count, List.countP_map, activeIndices, List.countP_map,
    List.countP_filter, List.countP_filter]
  refine List.countP_congr fun i _ => ?_
  simp [and_comm]

theorem countBits_take_add_drop (n : Nat) (bs : List Bool) :
    countBits (bs.take n) + countBits (bs.drop n) = countBits bs := by
  simp only [countBits, ← List.count_append, List.take_append_drop]

theorem countBits_twoDigits_le (col : ColSet) : countBits (col.toList.drop 10) ≤ 2 :=
  List.count_le_length.trans (by simp)

/-- Settles O59: the two lists cost what their indices cost, five and twelve bits bound the counts, and the four extreme
lines are evaluated. -/
theorem reportLength : Obligations.ReportLength := by
  refine ⟨fun row col => ?_, by decide, rfl, rfl⟩
  have hrow : (indexList true (activeIndices row)).length = 2 * countBits row.toList := by
    rw [length_indexList_true, length_activeIndices, countP_twoDigits_row, Nat.add_zero]
  have hcol : (indexList true (activeIndices col)).length =
      2 * countBits col.toList + countBits (col.toList.drop 10) := by
    rw [length_indexList_true, length_activeIndices, countP_twoDigits_col]
  have hsplit := countBits_take_add_drop 10 col.toList
  have hrowLe := countBits_toList_le row
  have hcolLe := countBits_toList_le col
  have htwoLe := countBits_twoDigits_le col
  have hlabels : rowLabel.length = 3 ∧ colLabel.length = 5 := ⟨rfl, rfl⟩
  simp only [format, List.length_append, length_indexList_false, hrow, hcol, hlabels]
  refine ⟨by omega, ?_, by omega, by omega, by omega, by omega⟩
  split_ifs <;> omega

/-! The line tells every pair of sets apart (R185). -/

/-- Two lists that have the same part before their first `c` and the same part after it, when they are equal. -/
theorem append_cons_inj_of_notMem_left {α : Type} {c : α} {xs ys us vs : List α} (hxs : c ∉ xs) (hys : c ∉ ys)
    (h : xs ++ c :: us = ys ++ c :: vs) : xs = ys ∧ us = vs := by
  -- one of `xs` and `ys` is the other and a further part, which would begin with `c`
  obtain ⟨part, rfl, hpart⟩ | ⟨part, rfl, hpart⟩ := List.append_eq_append_iff.mp h <;> cases part with
  | nil => simpa [eq_comm] using hpart
  | cons x part =>
    obtain ⟨rfl, -⟩ := List.cons.inj hpart
    simp at hxs hys

/-- With trailing spaces the first space ends the first index. -/
theorem indexList_true_injective {is js : List Nat} (his : ∀ i ∈ is, i < 12) (hjs : ∀ j ∈ js, j < 12)
    (h : indexList true is = indexList true js) : is = js := by
  induction is generalizing js with
  | nil =>
    cases js with
    | nil => rfl
    | cons j js => simp [indexList_true_cons] at h
  | cons i is ih =>
    cases js with
    | nil => simp [indexList_true_cons] at h
    | cons j js =>
      rw [List.forall_mem_cons] at his hjs
      rw [indexList_true_cons, indexList_true_cons] at h
      obtain ⟨hfirst, hrest⟩ :=
        append_cons_inj_of_notMem_left (space_notMem_decNumeral his.1) (space_notMem_decNumeral hjs.1) h
      rw [decNumeral_injective his.1 hjs.1 hfirst, ih his.2 hjs.2 hrest]

theorem indexList_false_eq_nil {is : List Nat} : indexList false is = [] ↔ is = [] := by
  cases is with
  | nil => simp
  | cons i is =>
    cases is with
    | nil => simp [indexList, decNumeral_ne_nil]
    | cons j is => simp [indexList_false_cons_cons]

theorem indexList_injective {trailing : Bool} {is js : List Nat} (his : ∀ i ∈ is, i < 12) (hjs : ∀ j ∈ js, j < 12)
    (h : indexList trailing is = indexList trailing js) : is = js := by
  cases trailing with
  | true => exact indexList_true_injective his hjs h
  | false =>
    by_cases hnil : is = []
    · subst hnil
      exact (indexList_false_eq_nil.mp (h.symm.trans rfl)).symm
    · have hnil' : js ≠ [] := fun hjs => hnil (indexList_false_eq_nil.mp (h.trans (indexList_false_eq_nil.mpr hjs)))
      refine indexList_true_injective his hjs ?_
      rw [indexList_true_eq_false_append hnil, indexList_true_eq_false_append hnil', h]

/-- Settles O60: the row list ends at the comma of the second label, the column list is what follows that label, and each
list gives its indices, which give its set. -/
theorem reportLineIsInjective : Obligations.ReportLineIsInjective := by
  intro trailing row row' col col' h
  have hcomma {r : RowSet} : (0x2C : Byte) ∉ indexList trailing (activeIndices r) :=
    fun hmem => absurd (mem_indexList activeIndices_row_lt hmem) (by decide)
  simp only [format, List.append_assoc, List.append_cancel_left_eq] at h
  obtain ⟨hrows, hrest⟩ := append_cons_inj_of_notMem_left hcomma hcomma h
  have hcols := List.append_cancel_left (as := [0x20, 0x43, 0x3A, 0x20]) hrest
  exact ⟨activeIndices_injective (indexList_injective activeIndices_row_lt activeIndices_row_lt hrows),
    activeIndices_injective (indexList_injective activeIndices_col_lt activeIndices_col_lt hcols)⟩

end Sys2Proof.Machine
end

section
/-!
The trace (R14, R37, R38): which events each micro-operation appends, and the two output streams as parts of it.
-/

namespace Sys2Proof.Machine

/-- The events that the meaning of `i` appends to the trace at `s` (R14). -/
def execEvents (i : Instr) (s : State) : List Event :=
  match i with
  | .sel a => [.selWrite a]
  | .rdr _ => [.sampleSig s.selr s.sigLevel]
  | .rdc _ => [.sampleSig s.selr s.sigLevel]
  | .rdd => [.sampleCol0 s.col0Level]
  | .capt => if edge s.flags s.prevCaps then [.capsOut (bitLevel (!s.caps))] else []
  | .cmd0 => if chDbg s.flags then [.disp (.confirm .dbgMode (!s.dbg)), .pause .confirm] else []
  | .cmd1 => if chStrm s.flags then [.disp (.confirm .stream (!s.strm)), .pause .confirm] else []
  | .disp => frame s.params s.dbg s.rpt s.row s.col
  | .tx => txEvents s.params s.strm s.rpt
  | .boot => if s.dispOk then [.dispInit true] else [.dispInit false, .halt 1]
  | .splash => [.disp (.splash "Ready"), .pause .splash]
  | .dec => []
  | .flg => []
  | .fmt => []
  | .endCycle => []

theorem exec_trace {i : Instr} {s t : State} (h : exec i s = .next t) : t.trace = s.trace ++ execEvents i s := by
  have ht := exec_next_cases h
  cases i with
  | rdr r | rdc k =>
    obtain ⟨-, rfl⟩ := ht
    rfl
  | capt | cmd0 | cmd1 =>
    rw [ht, execEvents]
    split <;> simp
  | boot =>
    cases hok : s.dispOk <;> simp [ht, execEvents, hok, Exc.code]
  | sel a | rdd | disp | tx | splash =>
    rw [ht]
    rfl
  | dec | flg | fmt | endCycle =>
    rw [ht]
    exact (List.append_nil _).symm

/-- Appended events that are no `Disp` leave the display stream as it was (R37). -/
theorem State.displayStream_of_trace_append {s t : State} {es : List Event} (htrace : t.trace = s.trace ++ es)
    (hsilent : ∀ e, .disp e ∉ es) : t.displayStream = s.displayStream := by
  unfold State.displayStream
  rw [htrace, List.filterMap_append, List.append_right_eq_self, List.filterMap_eq_nil_iff]
  intro e he
  cases e with
  | disp e => exact absurd he (hsilent e)
  | _ => rfl

/-- Only `SPLASH`, `CMD 0`, `CMD 1` and `DISP` write the display stream (R45). -/
theorem exec_displayStream {i : Instr} {s t : State} (h : exec i s = .next t) (hsplash : i ≠ .splash)
    (hcmd0 : i ≠ .cmd0) (hcmd1 : i ≠ .cmd1) (hdisp : i ≠ .disp) : t.displayStream = s.displayStream := by
  refine State.displayStream_of_trace_append (exec_trace h) fun e => ?_
  cases i with
  | splash | cmd0 | cmd1 | disp => contradiction
  | capt | tx | boot =>
    simp only [execEvents, txEvents]
    split <;> simp
  | sel a | rdr r | rdc k | rdd | dec | flg | fmt | endCycle => simp [execEvents]

/-- Settles O28: each register's port, each stream's writers, and that no meaning writes the micro-program space. -/
theorem registersChangeOnlyThroughTheirWritePorts : Obligations.RegistersChangeOnlyThroughTheirWritePorts := by
  intro i s t h
  have hports := exec_writePorts h
  obtain ⟨hcaps, hprev, hdbg, hstrm⟩ := exec_persistent_bits h
  obtain ⟨hparams, hustore⟩ := exec_params_ustore h
  have htx (hi : i ≠ .tx) : t.txLines = s.txLines := by
    obtain ⟨es, htrace, hsilent⟩ := exec_trace_append_silent h (.inl hi)
    exact State.txLines_of_trace_append htrace hsilent
  exact ⟨hports.selr, hports.row, hports.col0, hports.col, hports.cells, hports.flags,
    fun hi => ⟨hcaps hi, hports.capsOut hi⟩, hdbg, hstrm, hports.rpt, hprev, hports.stop, exec_displayStream h, htx,
    hports.inputs, hparams, State.readWord_congr hparams hustore⟩

/-- Settles O33: a step appends the events of its micro-operation, and each stream appends its part of them. -/
theorem traceIsAppendOnly : Obligations.TraceIsAppendOnly := by
  intro s t h
  obtain ⟨i, -, hexec⟩ := step_next_iff.mp h
  have htrace := exec_trace hexec
  refine ⟨⟨_, htrace⟩, ?_, ?_⟩
  · simp only [State.displayStream, htrace, List.filterMap_append]
    exact ⟨_, rfl⟩
  · simp only [State.transmitStream, State.txLines, htrace, List.filterMap_append, List.flatten_append]
    exact ⟨_, rfl⟩

end Sys2Proof.Machine
end

section
/-!
Halting (R41, R210, R215, R216): a failing `BOOT` alone halts, and a halted machine has no step.
-/

namespace Sys2Proof.Machine

/-- Settles O31: no other micro-operation writes `HALT`, and `BOOT` writes it on failure alone. -/
theorem onlyAFailingBootHalts : Obligations.OnlyAFailingBootHalts := by
  intro s t h
  obtain ⟨i, hfetch, hexec⟩ := step_next_iff.mp h
  obtain ⟨hrun, -⟩ := fetch_next_iff.mp hfetch
  by_cases hi : i = .boot
  · subst hi
    cases hok : s.dispOk with
    | true =>
      obtain rfl := Host.Outcome.next.inj ((exec_boot_of_ok hok).symm.trans hexec)
      simp [hrun]
    | false =>
      obtain rfl := Host.Outcome.next.inj ((exec_boot_of_failure hok).symm.trans hexec)
      simp [hfetch]
  · have hhalt : t.halt = false := ((exec_writePorts hexec).stop hi).1.trans hrun
    simp [hhalt, hfetch, hi]

theorem step_of_halted {s : State} (h : s.halt = true) : step s = .fault (.halted s.cause) := by
  simp [step, fetch, h]

theorem run_of_halted {s : State} (h : s.halt = true) (n : Nat) :
    Host.Core.run core (n + 1) s = .fault (.halted s.cause) := by
  have hstep : core.step s = .fault (.halted s.cause) := step_of_halted h
  simp only [Host.Core.run, hstep]

/-- Settles O32: the fetch of a halted machine is the fault. -/
theorem haltedMachineHasNoStep : Obligations.HaltedMachineHasNoStep :=
  fun _ h => ⟨step_of_halted h, run_of_halted h⟩

end Sys2Proof.Machine
end

section
/-!
The invariants that every step keeps (R24, R25, R41, R77, R171), and that reset meets them (R44).
-/

namespace Sys2Proof.Machine

/-- Settles O35: a step writes neither the space nor the parameters. -/
theorem stepKeepsTheMicroProgramSpaceCanonical : Obligations.StepKeepsTheMicroProgramSpaceCanonical := by
  intro s t hwf h
  obtain ⟨hparams, hustore⟩ := step_params_ustore h
  rwa [hparams, hustore]

/-- Where a step of an intact machine goes: from `END` to the start of a cycle, from a failing `BOOT` nowhere, from every
other word to the next address. -/
theorem State.Intact.step_upc {s t : State} (hintact : s.Intact) (h : step s = .next t) :
    (s.upc.toNat = 43 ∧ t.upc.toNat = 2) ∨ (s.upc.toNat = 0 ∧ t.upc.toNat = 0) ∨
    (s.upc.toNat < 43 ∧ t.upc.toNat = s.upc.toNat + 1) := by
  obtain ⟨i, hfetch, hexec⟩ := step_next_iff.mp h
  obtain ⟨hle, hop⟩ := hintact.microOp_of_fetch hfetch
  obtain ⟨hupc, -⟩ := exec_upc_halt hexec
  split_ifs at hupc with hend hboot
  · subst hend
    exact .inl ⟨microOp_once_address hop, by rw [hupc]; rfl⟩
  · obtain ⟨rfl, -⟩ := hboot
    have hzero : s.upc.toNat = 0 := microOp_once_address hop
    exact .inr (.inl ⟨hzero, by rw [hupc, hzero]⟩)
  · have hne : s.upc.toNat ≠ 43 := by
      intro heq
      rw [heq] at hop
      exact hend (Option.some.inj hop).symm
    exact .inr (.inr ⟨by omega, by rw [hupc]; bv_omega⟩)

theorem exec_cause_of_running {i : Instr} {s t : State} (h : exec i s = .next t) (hrun : t.halt = false) :
    t.cause = s.cause := by
  by_cases hi : i = .boot
  · subst hi
    cases hok : s.dispOk with
    | true => rw [← Host.Outcome.next.inj ((exec_boot_of_ok hok).symm.trans h)]
    | false =>
      rw [← Host.Outcome.next.inj ((exec_boot_of_failure hok).symm.trans h)] at hrun
      contradiction
  · exact ((exec_writePorts h).stop hi).2

/-- Settles O36: an intact machine stays on its table, a failing `BOOT` at address 0 alone halts it and records cause 1, and
`CAUSE` is written no other way. -/
theorem stepKeepsTheSequencerLegal : Obligations.StepKeepsTheSequencerLegal := by
  intro s t ⟨hintact, hle, hrunning, _⟩ h
  obtain ⟨i, hfetch, hexec⟩ := step_next_iff.mp h
  obtain ⟨hhalt, hrecord⟩ := onlyAFailingBootHalts s t h
  refine ⟨(step_params_ustore h).2.trans hintact, ?_, fun hrun => ?_, fun hstop => ?_⟩
  · have hupc := hintact.step_upc h
    omega
  · exact (exec_cause_of_running hexec hrun).trans (hrunning (fetch_next_iff.mp hfetch).1)
  · obtain ⟨hcause, hupc, -⟩ := hrecord hstop
    have hzero : s.upc.toNat = 0 := microOp_once_address (hintact.microOp_of_fetch (hhalt.mp hstop).1).2
    exact ⟨hcause, hupc.trans (BitVec.eq_of_toNat_eq hzero)⟩

/-- Settles O37: `CAPT` writes the latch and the line together, and nothing else writes either. -/
theorem stepKeepsTheCapsLineShowingTheLatch : Obligations.StepKeepsTheCapsLineShowingTheLatch := by
  intro s t hs h
  obtain ⟨i, -, hexec⟩ := step_next_iff.mp h
  by_cases hi : i = .capt
  · subst hi
    have ht : t = _ := exec_next_cases hexec
    rw [ht]
    split
    · exact bitLevel_eq_high _
    · exact hs
  · obtain ⟨hcaps, -⟩ := exec_persistent_bits hexec
    rwa [State.CapsShown, hcaps hi, (exec_writePorts hexec).capsOut hi]

/-- Where a select stands just before the address an intact machine has come to, its channel is on the selection lines. -/
theorem State.Intact.selr_of_select_before {s t : State} {a : ChanAddr} (hintact : s.Intact) (h : step s = .next t)
    (hpos : 1 ≤ t.upc.toNat) (hsel : microOp s.params (t.upc.toNat - 1) = some (.sel a)) : t.selr = a := by
  obtain ⟨i, hfetch, hexec⟩ := step_next_iff.mp h
  obtain ⟨-, hop⟩ := hintact.microOp_of_fetch hfetch
  obtain ⟨-, htwo⟩ | ⟨-, hzero⟩ | ⟨-, hnext⟩ := hintact.step_upc h
  · rw [htwo] at hsel
    cases hsel
  · omega
  · rw [hnext, Nat.add_sub_cancel, hop] at hsel
    obtain rfl := Option.some.inj hsel
    rw [exec_next_cases hexec]
    rfl

/-- Settles O38: every read stands directly after its select, which is the word an intact machine executed before it. -/
theorem stepKeepsSelectBeforeRead : Obligations.StepKeepsSelectBeforeRead := by
  intro s t hintact _ h
  obtain ⟨hrow, hcol, -⟩ := everyReadDirectlyFollowsItsSelect
  obtain ⟨hparams, -⟩ := step_params_ustore h
  rw [State.ReadsItsChannel, hparams]
  refine ⟨fun r hop => ?_, fun j hop => ?_⟩
  · obtain ⟨hpos, hsel⟩ := hrow _ _ r hop
    exact hintact.selr_of_select_before h hpos hsel
  · obtain ⟨hpos, hsel⟩ := hcol _ _ j hop
    exact hintact.selr_of_select_before h hpos hsel

/-- Where the writers of the per-cycle registers stand: the reads in the scan, `DEC`, `FLG` and `FMT` once each (R94). -/
theorem microOp_perCycleWriter_address {p : Params} {a : Nat} {i : Instr} : microOp p a = some i →
    match i with
    | .rdr _ => a < 35
    | .rdc _ => a < 35
    | .rdd => a < 35
    | .dec => a = 35
    | .flg => a = 36
    | .fmt => a = 40
    | _ => True := by
  intro h
  unfold microOp at h
  split_ifs at h
  · cases h; trivial
  · cases h; trivial
  · cases h; trivial
  · cases h
    dsimp only
    omega
  · cases h
    dsimp only
    omega
  · cases h; trivial
  · cases h
    assumption
  · split at h <;> cases h <;> trivial

/-- From the end of the scan on, the step keeps `ROW` and `COL`. -/
theorem exec_keeps_sets {i : Instr} {s t : State} (hexec : exec i s = .next t)
    (hop : microOp s.params s.upc.toNat = some i) (hscanned : 35 ≤ s.upc.toNat) : t.row = s.row ∧ t.col = s.col := by
  have hports := exec_writePorts hexec
  have haddress := microOp_perCycleWriter_address hop
  have hread : i ≠ .rdd ∧ (∀ r, i ≠ .rdr r) ∧ ∀ k, i ≠ .rdc k := by
    refine ⟨?_, fun r => ?_, fun k => ?_⟩ <;>
    · rintro rfl
      dsimp only at haddress
      omega
  obtain ⟨hrdd, hrdr, hrdc⟩ := hread
  refine ⟨Vector.ext fun r hr => hports.row ⟨r, hr⟩ (hrdr _), Vector.ext fun k hk => ?_⟩
  by_cases hzero : k = 0
  · subst hzero
    exact hports.col0 hrdd
  · exact hports.col ⟨k, hk⟩ (Nat.pos_of_ne_zero hzero) (hrdc _)

/-- Settles O39: a register's writer computes it from its sources, and from the writer's address on no other word of the
table writes the register or a source of it. -/
theorem stepKeepsPerCycleRegistersComputed : Obligations.StepKeepsPerCycleRegistersComputed := by
  intro s t hintact ⟨hcells, hflags, hrpt⟩ h
  obtain ⟨i, hfetch, hexec⟩ := step_next_iff.mp h
  obtain ⟨-, hop⟩ := hintact.microOp_of_fetch hfetch
  have hupc := hintact.step_upc h
  have hports := exec_writePorts hexec
  have haddress := microOp_perCycleWriter_address hop
  obtain ⟨hparams, -⟩ := step_params_ustore h
  have hpassed {a : Nat} {writer : Instr} (hwriter : microOp s.params a = some writer) (hi : i ≠ writer) :
      s.upc.toNat ≠ a := by
    rintro rfl
    exact hi (Option.some.inj (hop.symm.trans hwriter))
  refine ⟨fun hlow hhigh => ?_, fun hlow hhigh => ?_, fun hlow hhigh => ?_⟩
  · by_cases hi : i = .dec
    · subst hi
      obtain rfl : t = _ := exec_next_cases hexec
      rfl
    · have hne : s.upc.toNat ≠ 35 := hpassed rfl hi
      obtain ⟨hrow, hcol⟩ := exec_keeps_sets hexec hop (by omega)
      rw [hports.cells hi, hrow, hcol]
      exact hcells (by omega) (by omega)
  · by_cases hi : i = .flg
    · subst hi
      obtain rfl : t = _ := exec_next_cases hexec
      rfl
    · have hne : s.upc.toNat ≠ 36 := hpassed rfl hi
      have hdec : i ≠ .dec := by
        rintro rfl
        dsimp only at haddress
        omega
      rw [hports.flags hi, hports.cells hdec, hparams]
      exact hflags (by omega) (by omega)
  · by_cases hi : i = .fmt
    · subst hi
      obtain rfl : t = _ := exec_next_cases hexec
      rfl
    · have hne : s.upc.toNat ≠ 40 := hpassed rfl hi
      obtain ⟨hrow, hcol⟩ := exec_keeps_sets hexec hop (by omega)
      rw [hports.rpt hi, hrow, hcol, hparams]
      exact hrpt (by omega) (by omega)

/-- Settles O40: `FMT` leaves a line of that length, and nothing else writes `RPT`. -/
theorem stepKeepsTheReportLengthInRange : Obligations.StepKeepsTheReportLengthInRange := by
  intro s t hs h
  obtain ⟨i, -, hexec⟩ := step_next_iff.mp h
  obtain ⟨hparams, -⟩ := step_params_ustore h
  rw [State.ReportSized, hparams]
  by_cases hi : i = .fmt
  · subst hi
    have ht : t.rpt = format s.params.trailingSpace s.row s.col := by rw [exec_next_cases hexec]; rfl
    obtain ⟨-, -, hlow, hhigh, hlow', hhigh'⟩ := reportLength.1 s.row s.col
    rw [ht]
    cases s.params.trailingSpace with
    | true => exact ⟨hlow, hhigh⟩
    | false => exact ⟨hlow', hhigh'⟩
  · rwa [(exec_writePorts hexec).rpt hi]

/-- Settles O41: reset stands at address 0, where no read and nothing of a cycle stands. -/
theorem resetMeetsEveryInvariant : Obligations.ResetMeetsEveryInvariant := by
  refine ⟨Memory.reset_wf, ⟨rfl, by decide, fun _ => rfl, nofun⟩, ⟨nofun, nofun⟩, ⟨nofun, nofun⟩,
    ⟨nofun, nofun, nofun⟩, ?_, configParams_wellFormed⟩
  have hlength : State.reset.rpt.length = 8 := rfl
  rw [State.ReportSized, hlength]
  split <;> decide

/-- Settles O42: every value is reset's own; the first word is `BOOT`'s. -/
theorem resetState : Obligations.ResetState := by
  refine ⟨rfl, rfl, rfl, rfl, rfl, rfl, rfl, rfl, rfl, rfl, rfl, rfl⟩

end Sys2Proof.Machine
end

section
/-!
Start-up (R193, R194, R241): two steps to the first cycle, or one step to the permanent stop.
-/

namespace Sys2Proof.Machine

/-- Settles O43: `BOOT` goes on, and `SPLASH` leaves the machine at the start of a cycle. -/
theorem startUpReachesTheFirstCycle : Obligations.StartUpReachesTheFirstCycle := by
  intro s hrun hintact hupc hok
  have hstart : s.Awaits 0 s.script := ⟨hrun, hintact, hupc, rfl⟩
  have hboot := (hstart.step_eq_exec (by decide) rfl).trans (exec_boot_of_ok hok)
  have hready : State.Awaits { s with
      script := s.script.tail, draws := if s.script.isEmpty then s.draws + 1 else s.draws
      trace := s.trace ++ [.dispInit true], upc := s.upc + 1 } 1 s.script.tail :=
    ⟨hrun, hintact, congrArg (· + 1) hupc, rfl⟩
  have hsplash := hready.step_eq_exec (by decide) rfl
  refine ⟨_, runs_trans (runs_one hboot) (runs_one hsplash), ⟨hrun, hintact, ?_⟩, rfl, rfl, List.append_assoc ..⟩
  exact congrArg (· + 1 + 1) hupc

/-- Settles O44: the failing `BOOT` halts, and a halted machine has no step. -/
theorem failedDisplayHaltsForGood : Obligations.FailedDisplayHaltsForGood := by
  intro s hrun hintact hupc hok
  have hstart : s.Awaits 0 s.script := ⟨hrun, hintact, hupc, rfl⟩
  refine ⟨_, (hstart.step_eq_exec (by decide) rfl).trans (exec_boot_of_failure hok), rfl, rfl, hupc, rfl, rfl, ?_⟩
  exact run_of_halted rfl

end Sys2Proof.Machine
end

section
/-!
The scan and the cycle as lists of meanings (R111, R203): the steps of an intact machine run through the table's words one
after another, and what the words of the scan and the nine words after it compute together is the cycle function.
-/

namespace Sys2Proof.Machine

/-! Meanings one after another. -/

/-- The meanings of a list of micro-operations, one after another. -/
def execAll : List Instr → State → Host.Outcome State Fault Refusal
  | [], s => .next s
  | i :: is, s =>
    match exec i s with
    | .next t => execAll is t
    | .fault why => .fault why
    | .refused why => .refused why

theorem execAll_cons {i : Instr} {s t : State} (h : exec i s = .next t) (is : List Instr) :
    execAll (i :: is) s = execAll is t := by
  rw [execAll, h]

theorem execAll_append {is : List Instr} {s t : State} (h : execAll is s = .next t) (js : List Instr) :
    execAll (is ++ js) s = execAll js t := by
  induction is generalizing s with
  | nil => rw [List.nil_append, Host.Outcome.next.inj h]
  | cons i is ih =>
    cases hexec : exec i s with
    | next u =>
      rw [execAll_cons hexec] at h
      rw [List.cons_append, execAll_cons hexec, ih h]
    | fault why | refused why =>
      rw [execAll, hexec] at h
      cases h

/-- From an address of a cycle on, the steps of an intact machine are the meanings of the table's words, up to `END`. -/
theorem State.Awaits.runs_execAll {is : List Instr} {s t : State} {a : Nat} (h : s.Awaits a s.script) (hlow : 2 ≤ a)
    (hhigh : a + is.length ≤ 43) (hops : ∀ k < is.length, microOp s.params (a + k) = is[k]?)
    (hexec : execAll is s = .next t) : Runs is.length s t ∧ t.Awaits (a + is.length) t.script := by
  induction is generalizing s a with
  | nil =>
    cases hexec
    exact ⟨runs_zero _, h⟩
  | cons i is ih =>
    rw [List.length_cons] at hhigh hops ⊢
    obtain ⟨j, u, hop, hfirst, hstep, hu⟩ := h.exists_next hlow (by omega)
    obtain rfl : j = i := Option.some.inj (hop.symm.trans (hops 0 (Nat.succ_pos _)))
    rw [execAll_cons hfirst] at hexec
    obtain ⟨hparams, -⟩ := exec_params_ustore hfirst
    have hrest (k : Nat) (hk : k < is.length) : microOp u.params (a + 1 + k) = is[k]? := by
      rw [hparams, Nat.add_assoc, Nat.add_comm 1]
      exact hops (k + 1) (Nat.succ_lt_succ hk)
    obtain ⟨hruns, ht⟩ := ih hu (by omega) (by omega) hrest hexec
    rw [Nat.add_comm is.length]
    exact ⟨runs_trans hstep hruns, by rwa [← Nat.add_assoc]⟩

/-! The scan (R144). -/

/-- The state `s` after `n` answers are taken. -/
def State.taken (n : Nat) (s : State) : State :=
  { s with script := s.script.drop n, draws := s.draws + (n - s.script.length) }

theorem State.takeAnswer_taken (s : State) (n : Nat) : (s.taken n).takeAnswer = s.taken (n + 1) := by
  simp only [State.takeAnswer, State.taken, List.tail_drop, List.isEmpty_iff, List.drop_eq_nil_iff, State.mk.injEq,
    true_and, and_true]
  split <;> omega

theorem State.nextAnswer_taken (s : State) (n : Nat) (line : InputLine) :
    (s.taken n).nextAnswer line = s.answerAt n line := by
  rw [State.nextAnswer_eq_answerAt]
  exact s.answerAt_taken n 0 line

/-- A scan that began at `s`, has taken `n` answers, recorded the events `es`, and stands at address `a`. -/
def State.scanned (n : Nat) (row : RowSet) (col : ColSet) (sel : ChanAddr) (es : List Event) (a : Nat) (s : State) : State :=
  { s.taken n with row, col, selr := sel, trace := s.trace ++ es, upc := BitVec.ofNat 6 a }

section Scanned

variable (s : State) (n a : Nat) (row : RowSet) (col : ColSet) (sel : ChanAddr) (es : List Event)

theorem State.scanned_nextAnswer (line : InputLine) :
    (s.scanned n row col sel es a).nextAnswer line = s.answerAt n line := s.nextAnswer_taken n line

theorem State.scanned_takeAnswer : (s.scanned n row col sel es a).takeAnswer = s.scanned (n + 1) row col sel es a := by
  unfold State.scanned
  rw [← State.takeAnswer_taken]
  rfl

theorem State.scanned_emit (es' : List Event) :
    (s.scanned n row col sel es a).emit es' = s.scanned n row col sel (es ++ es') a := by
  simp [State.scanned, State.emit]

theorem State.scanned_advance : (s.scanned n row col sel es a).advance = s.scanned n row col sel es (a + 1) := by
  simp [State.scanned, State.advance, BitVec.ofNat_add]

/-- A `SEL` of the scan. -/
theorem exec_sel_scanned (ch : ChanAddr) : exec (.sel ch) (s.scanned n row col sel es a) =
    .next (s.scanned n row col ch (es ++ [.selWrite ch]) (a + 1)) := by
  rw [← State.scanned_advance, ← State.scanned_emit]
  rfl

theorem State.scanned_afterMemRead : (s.scanned n row col sel es a).afterMemRead = s.scanned (n + 1) row col sel
    (es ++ [.sampleSig sel (levelFor s.params.activeSig (s.answerAt n (.sig sel)))]) a := by
  rw [← State.scanned_nextAnswer s n a row col sel es, ← State.scanned_emit, ← State.scanned_takeAnswer]
  rfl

/-- An `RDR` of the scan. -/
theorem exec_rdr_scanned (r : Fin 5) : exec (.rdr (BitVec.ofNat 4 r.val)) (s.scanned n row col sel es a) =
    .next (s.scanned (n + 1) (row.set r.val (s.answerAt n (.sig sel))) col sel
      (es ++ [.sampleSig sel (levelFor s.params.activeSig (s.answerAt n (.sig sel)))]) (a + 1)) := by
  rw [exec_rdr_row, State.scanned_afterMemRead, State.scanned_nextAnswer, ← State.scanned_advance]
  rfl

/-- An `RDC` of the scan. -/
theorem exec_rdc_scanned (j : Fin 11) : exec (.rdc (BitVec.ofNat 4 (j.val + 1))) (s.scanned n row col sel es a) =
    .next (s.scanned (n + 1) row (col.set (j.val + 1) (s.answerAt n (.sig sel))) sel
      (es ++ [.sampleSig sel (levelFor s.params.activeSig (s.answerAt n (.sig sel)))]) (a + 1)) := by
  rw [exec_rdc_col, State.scanned_afterMemRead, State.scanned_nextAnswer, ← State.scanned_advance]
  rfl

theorem State.scanned_afterColRead : (s.scanned n row col sel es a).afterColRead = s.scanned (n + 1) row col sel
    (es ++ [.sampleCol0 (levelFor s.params.activeCol0 (s.answerAt n .col0))]) a := by
  rw [← State.scanned_nextAnswer s n a row col sel es, ← State.scanned_emit, ← State.scanned_takeAnswer]
  rfl

/-- The `RDD` of the scan. -/
theorem exec_rdd_scanned : exec .rdd (s.scanned n row col sel es a) =
    .next (s.scanned (n + 1) row (col.set 0 (s.answerAt n .col0)) sel
      (es ++ [.sampleCol0 (levelFor s.params.activeCol0 (s.answerAt n .col0))]) (a + 1)) := by
  simp only [exec, execRdd, activeCol0_col0Level]
  rw [State.scanned_afterColRead, State.scanned_nextAnswer, ← State.scanned_advance]
  rfl

end Scanned

theorem State.scanned_zero {s : State} (h : s.upc = 2) : s.scanned 0 s.row s.col s.selr [] 2 = s := by
  have hupc : BitVec.ofNat 6 2 = s.upc := h.symm
  simp only [State.scanned, State.taken, hupc, List.drop_zero, Nat.zero_sub, Nat.add_zero, List.append_nil]

/-- The two events of `SCANROW r` (R142). -/
def rowEvents (p : Params) (samples : Vector Bool 17) (r : Fin 5) : List Event :=
  [.selWrite p.rowCh[r], .sampleSig p.rowCh[r] (levelFor p.activeSig samples[r.val])]

/-- The two events of `SCANCOL k`, `k = j + 1` (R143). -/
def colEvents (p : Params) (samples : Vector Bool 17) (j : Fin 11) : List Event :=
  [.selWrite p.colCh[j], .sampleSig p.colCh[j] (levelFor p.activeSig samples[6 + j.val])]

theorem scanEvents_eq (p : Params) (samples : Vector Bool 17) : scanEvents p samples =
    (List.finRange 5).flatMap (rowEvents p samples) ++ [.sampleCol0 (levelFor p.activeCol0 samples[5])] ++
      (List.finRange 11).flatMap (colEvents p samples) := rfl

theorem cycleSamples_row (s : State) (r : Fin 5) :
    s.cycleSamples[r.val] = s.answerAt r.val (.sig s.params.rowCh[r]) := by
  simp [State.cycleSamples, sampleLine]

theorem cycleSamples_direct (s : State) : s.cycleSamples[5] = s.answerAt 5 .col0 := by
  simp [State.cycleSamples, sampleLine]

theorem cycleSamples_col (s : State) (j : Fin 11) :
    s.cycleSamples[6 + j.val] = s.answerAt (6 + j.val) (.sig s.params.colCh[j]) := by
  have hmux : ¬ 6 + j.val < 5 ∧ 6 + j.val ≠ 5 := by omega
  simp [State.cycleSamples, sampleLine, hmux]

/-- `SCANROW r` records its two events and loads the sample of its row (R142). -/
theorem execAll_scanRow (s : State) (r : Fin 5) (row : RowSet) (col : ColSet) (sel : ChanAddr) (es : List Event) (a : Nat) :
    execAll (scanRow s.params r) (s.scanned r row col sel es a) =
      .next (s.scanned (r + 1) (row.set r s.cycleSamples[r.val]) col s.params.rowCh[r]
        (es ++ rowEvents s.params s.cycleSamples r) (a + 2)) := by
  rw [scanRow, execAll_cons (exec_sel_scanned ..), execAll_cons (exec_rdr_scanned ..), rowEvents, cycleSamples_row,
    List.append_assoc]
  rfl

/-- `SCANCOL k`, `k = j + 1`, records its two events and loads the sample of its column (R143). -/
theorem execAll_scanCol (s : State) (j : Fin 11) (row : RowSet) (col : ColSet) (sel : ChanAddr) (es : List Event) (a : Nat) :
    execAll (scanCol s.params j) (s.scanned (6 + j) row col sel es a) =
      .next (s.scanned (6 + (j + 1)) row (col.set (j + 1) s.cycleSamples[6 + j.val]) s.params.colCh[j]
        (es ++ colEvents s.params s.cycleSamples j) (a + 2)) := by
  rw [scanCol, execAll_cons (exec_sel_scanned ..), execAll_cons (exec_rdc_scanned ..), colEvents, cycleSamples_col,
    List.append_assoc]
  rfl

theorem flatMap_take_finRange_succ {α : Type} {n i : Nat} (f : Fin n → List α) (h : i < n) :
    ((List.finRange n).take (i + 1)).flatMap f = ((List.finRange n).take i).flatMap f ++ f ⟨i, h⟩ := by
  simp [List.take_add_one, h]

/-- The first `r` rounds of the row loop load the first `r` samples. -/
theorem execAll_scanRows {s : State} (h : s.upc = 2) {r : Nat} (hr : r ≤ 5) :
    ∃ row sel, AgreeBelow r row (samplesRow s.cycleSamples) ∧
      execAll (((List.finRange 5).take r).flatMap (scanRow s.params)) s = .next (s.scanned r row s.col sel
        (((List.finRange 5).take r).flatMap (rowEvents s.params s.cycleSamples)) (2 + 2 * r)) := by
  induction r with
  | zero => exact ⟨s.row, s.selr, agreeBelow_zero _ _, congrArg Host.Outcome.next (State.scanned_zero h).symm⟩
  | succ r ih =>
    obtain ⟨row, sel, hrow, hexec⟩ := ih (by omega)
    have hround := execAll_scanRow s ⟨r, hr⟩ row s.col sel
      (((List.finRange 5).take r).flatMap (rowEvents s.params s.cycleSamples)) (2 + 2 * r)
    rw [← flatMap_take_finRange_succ] at hround
    refine ⟨_, s.params.rowCh[r], hrow.set (by omega), ?_⟩
    rw [flatMap_take_finRange_succ _ hr, execAll_append hexec, hround]
    simp [samplesRow, Nat.mul_add, Nat.add_assoc]

theorem samplesCol_succ (samples : Vector Bool 17) {j : Nat} (hj : j < 11) :
    (samplesCol samples)[j + 1] = samples[6 + j] := by
  simp [samplesCol, Nat.add_comm j 1, ← Nat.add_assoc]

/-- After the rows and the direct column, the first `j` rounds of the column loop load the next `j` samples, and the last of
them leaves its channel selected. -/
theorem execAll_scanCols (s : State) (row : RowSet) (sel : ChanAddr) (es : List Event) {j : Nat} (hj : j ≤ 11) :
    ∃ col sel', AgreeBelow (j + 1) col (samplesCol s.cycleSamples) ∧ (∀ i : Fin 11, j = i + 1 → sel' = s.params.colCh[i]) ∧
      execAll (((List.finRange 11).take j).flatMap (scanCol s.params))
          (s.scanned 6 row (s.col.set 0 s.cycleSamples[5]) sel es 13) =
        .next (s.scanned (6 + j) row col sel'
          (es ++ ((List.finRange 11).take j).flatMap (colEvents s.params s.cycleSamples)) (13 + 2 * j)) := by
  induction j with
  | zero =>
    have hcol := (agreeBelow_zero s.col (samplesCol s.cycleSamples)).set (by omega)
    refine ⟨_, sel, hcol, nofun, ?_⟩
    simp [samplesCol, execAll]
  | succ j ih =>
    obtain ⟨col, sel', hcol, -, hexec⟩ := ih (by omega)
    have hround := execAll_scanCol s ⟨j, hj⟩ row col sel'
      (es ++ ((List.finRange 11).take j).flatMap (colEvents s.params s.cycleSamples)) (13 + 2 * j)
    rw [List.append_assoc, ← flatMap_take_finRange_succ] at hround
    refine ⟨_, s.params.colCh[j], hcol.set (by omega), fun i hi => ?_, ?_⟩
    · obtain rfl : j = i := Nat.succ.inj hi
      rfl
    · rw [flatMap_take_finRange_succ _ hj, execAll_append hexec, hround]
      simp [samplesCol_succ _ (show j < 11 from hj), Nat.mul_add, Nat.add_assoc]

/-- The state after the scan that begins at `s`: the 17 samples loaded and their events recorded (R144). -/
def State.afterScan (s : State) : State :=
  s.scanned 17 (samplesRow s.cycleSamples) (samplesCol s.cycleSamples) s.params.colCh[10]
    (scanEvents s.params s.cycleSamples) 35

/-- The meanings of the scan's words, one after another, leave the state after the scan. -/
theorem execAll_scanOps {s : State} (h : s.upc = 2) : execAll (scanOps s.params) s = .next s.afterScan := by
  obtain ⟨row, sel, hrow, hrows⟩ := execAll_scanRows h (Nat.le_refl 5)
  obtain rfl := hrow.eq
  have hdirect := exec_rdd_scanned s 5 12 (samplesRow s.cycleSamples) s.col sel
    ((List.finRange 5).flatMap (rowEvents s.params s.cycleSamples))
  rw [← cycleSamples_direct] at hdirect
  obtain ⟨col, sel', hcol, hsel, hcols⟩ := execAll_scanCols s (samplesRow s.cycleSamples) sel
    ((List.finRange 5).flatMap (rowEvents s.params s.cycleSamples) ++
      [.sampleCol0 (levelFor s.params.activeCol0 s.cycleSamples[5])]) (Nat.le_refl 11)
  obtain rfl := hcol.eq
  obtain rfl := hsel 10 rfl
  rw [scanOps, List.append_assoc, State.afterScan, scanEvents_eq]
  exact (execAll_append hrows _).trans ((execAll_cons hdirect _).trans hcols)

theorem microOp_cycle (p : Params) (k : Nat) : microOp p (2 + k) = (cycleOps p)[k]? := by
  rw [microProgramIsStartupThenCycle, List.getElem?_append_right (Nat.le_add_right 2 k)]
  exact congrArg ((cycleOps p)[·]?) (Nat.add_sub_cancel_left 2 k)

theorem State.AtCycleStart.upc_eq {s : State} (h : s.AtCycleStart) : s.upc = 2 := h.2.2

/-- From the start of a cycle the steps are the meanings of the first words of the cycle, up to `END`. -/
theorem State.AtCycleStart.runs_execAll {s t : State} (h : s.AtCycleStart) {is rest : List Instr}
    (hops : cycleOps s.params = is ++ rest) (hlength : is.length ≤ 41) (hexec : execAll is s = .next t) :
    Runs is.length s t ∧ t.Awaits (2 + is.length) t.script := by
  obtain ⟨hrun, hintact, hupc⟩ := h
  have hstart : s.Awaits 2 s.script := ⟨hrun, hintact, hupc, rfl⟩
  refine hstart.runs_execAll (by omega) (by omega) (fun k hk => ?_) hexec
  rw [microOp_cycle, hops, List.getElem?_append_left hk]

/-- Settles O45: the scan's words are the first 33 of the cycle. -/
theorem scanLoadsTheSamplesInOrder : Obligations.ScanLoadsTheSamplesInOrder := by
  intro s h
  have hlength : (scanOps s.params).length ≤ 41 := by
    change 33 ≤ 41
    decide
  exact (h.runs_execAll (cycleOps_eq s.params) hlength (execAll_scanOps h.upc_eq)).1

end Sys2Proof.Machine
end

section
/-!
The cycle function (R203, R204): the words after the scan compute the rest of it, so a cycle of steps ends in its state.
-/

namespace Sys2Proof.Machine

/-! The engine's three conditional meanings in the cycle function's form, where a bit is changed by exclusive or (R203). -/

theorem exec_capt_eq (s : State) : exec .capt s = .next { s with
    caps := s.caps ^^ edge s.flags s.prevCaps
    capsOut := if edge s.flags s.prevCaps then bitLevel (s.caps ^^ edge s.flags s.prevCaps) else s.capsOut
    trace := s.trace ++ if edge s.flags s.prevCaps then [.capsOut (bitLevel (s.caps ^^ edge s.flags s.prevCaps))] else []
    upc := s.upc + 1 } := by
  cases h : edge s.flags s.prevCaps <;> simp [exec, execCapt, h, State.toggleCaps, State.advance]

theorem exec_cmd0_eq (s : State) : exec .cmd0 s = .next { s with
    dbg := s.dbg ^^ chDbg s.flags
    trace := s.trace ++
      if chDbg s.flags then [.disp (.confirm .dbgMode (s.dbg ^^ chDbg s.flags)), .pause .confirm] else []
    upc := s.upc + 1 } := by
  cases h : chDbg s.flags <;> simp [exec, execCmd0, h, State.emit, State.advance]

theorem exec_cmd1_eq (s : State) : exec .cmd1 s = .next { s with
    strm := s.strm ^^ chStrm s.flags
    trace := s.trace ++
      if chStrm s.flags then [.disp (.confirm .stream (s.strm ^^ chStrm s.flags)), .pause .confirm] else []
    upc := s.upc + 1 } := by
  cases h : chStrm s.flags <;> simp [exec, execCmd1, h, State.emit, State.advance]

/-- The flags that a cycle which has scanned into `s` computes (R203). -/
def State.cycleFlags (s : State) : Flags := presenceFlags s.params (decodeCells s.row s.col)

/-- The state at `END` of a cycle that has scanned into `s` (R203). -/
def State.atEnd (s : State) : State :=
  let new := s.persistent.after s.cycleFlags
  let rpt := format s.params.trailingSpace s.row s.col
  { s with
    cells := decodeCells s.row s.col
    flags := s.cycleFlags
    rpt
    caps := new.caps
    dbg := new.dbg
    strm := new.strm
    capsOut := if edge s.cycleFlags s.prevCaps then bitLevel new.caps else s.capsOut
    trace := s.trace ++ engineEvents s.cycleFlags s.persistent new ++ frame s.params new.dbg rpt s.row s.col ++
      txEvents s.params new.strm rpt
    upc := s.upc + 8 }

/-- The words between the scan and `END` (R111). -/
def scannedOps : List Instr := [.dec] ++ engineOps ++ [.fmt, .disp, .tx]

theorem execAll_scannedOps (s : State) : execAll scannedOps s = .next s.atEnd := by
  have hcapt (t : State) := execAll_cons (exec_capt_eq t) [.cmd0, .cmd1, .fmt, .disp, .tx]
  have hcmd0 (t : State) := execAll_cons (exec_cmd0_eq t) [.cmd1, .fmt, .disp, .tx]
  have hcmd1 (t : State) := execAll_cons (exec_cmd1_eq t) [.fmt, .disp, .tx]
  have hupc : s.upc + 1 + 1 + 1 + 1 + 1 + 1 + 1 + 1 = s.upc + 8 := by bv_omega
  calc
    execAll scannedOps s = execAll [.capt, .cmd0, .cmd1, .fmt, .disp, .tx] { s with
        cells := decodeCells s.row s.col, flags := s.cycleFlags, upc := s.upc + 1 + 1 } := rfl
    _ = .next s.atEnd := by
      rw [hcapt, hcmd0, hcmd1]
      simp only [State.atEnd, ← hupc, engineEvents, ← List.append_assoc]
      generalize s.cycleFlags = flags
      rfl

/-- `END` after the scan and the words that follow it leaves the state of the cycle function. -/
theorem exec_endCycle_atEnd (s : State) : exec .endCycle s.afterScan.atEnd = .next s.afterCycle := by
  -- the caps line is the one register whose new value depends on a condition
  cases hedge : edge (presenceFlags s.params (decodeCells (samplesRow s.cycleSamples) (samplesCol s.cycleSamples)))
    s.prevCaps <;>
  simp only [exec, execEndCycle, State.atEnd, State.afterScan, State.scanned, State.taken, State.afterCycle, cycle,
    State.cycleFlags, State.persistent, Persistent.after, hedge, if_true, if_false, Bool.false_eq_true, ← List.append_assoc]

/-- The meanings of a cycle's words before its `END` scan and then compute all the rest but `PREVCAPS`. -/
theorem execAll_beforeEnd {s : State} (h : s.upc = 2) :
    execAll (scanOps s.params ++ scannedOps) s = .next s.afterScan.atEnd := by
  rw [execAll_append (execAll_scanOps h), execAll_scannedOps]

theorem length_beforeEnd (p : Params) : (scanOps p ++ scannedOps).length = 41 := rfl

/-- Settles O48: the cycle's words but the last are the scan and the words after it, and the last is `END`. -/
theorem cycleOfStepsIsTheCycleFunction : Obligations.CycleOfStepsIsTheCycleFunction := by
  intro s h
  have hops : cycleOps s.params = (scanOps s.params ++ scannedOps) ++ [.endCycle] := by
    simp [cycleOps, scannedOps]
  have hlength := length_beforeEnd s.params
  obtain ⟨hruns, hend⟩ := h.runs_execAll hops hlength.le (execAll_beforeEnd h.upc_eq)
  rw [hlength] at hruns hend
  exact runs_trans hruns (runs_one ((hend.step_eq_exec (Nat.le_refl 43) rfl).trans (exec_endCycle_atEnd s)))

end Sys2Proof.Machine
end

section
/-!
What cycles carry on and record (R25, R165, R169, R196): the cycle function depends on nothing but the carried state, a held
chord toggles in every cycle, the caps line is written once per press, and what the sinks receive.
-/

namespace Sys2Proof.Machine

/-! Cycle after cycle. -/

theorem State.AtCycleStart.afterCycle {s : State} (h : s.AtCycleStart) : s.afterCycle.AtCycleStart := by
  obtain ⟨hrun, hintact, -⟩ := h
  exact ⟨hrun, hintact, rfl⟩

theorem State.afterCycles_succ (m : Nat) (s : State) : s.afterCycles (m + 1) = (s.afterCycles m).afterCycle :=
  Function.iterate_succ_apply' State.afterCycle m s

theorem State.AtCycleStart.afterCycles {s : State} (h : s.AtCycleStart) (m : Nat) : (s.afterCycles m).AtCycleStart := by
  induction m with
  | zero => exact h
  | succ m ih =>
    rw [State.afterCycles_succ]
    exact ih.afterCycle

/-- `m` cycles are `42 * m` steps. -/
theorem State.AtCycleStart.runs_afterCycles {s : State} (h : s.AtCycleStart) (m : Nat) :
    Runs (42 * m) s (s.afterCycles m) := by
  induction m with
  | zero => exact runs_zero s
  | succ m ih =>
    rw [State.afterCycles_succ]
    exact runs_trans ih (cycleOfStepsIsTheCycleFunction _ (h.afterCycles m))

/-- Settles O49: `SameCarry` leaves nothing different that the cycle function reads. -/
theorem perCycleRegistersDoNotCarryOver : Obligations.PerCycleRegistersDoNotCarryOver := by
  intro s u h hsame
  cases s
  cases u
  obtain ⟨rfl, rfl, rfl, rfl, rfl, rfl, rfl, rfl, rfl, rfl, rfl, rfl, rfl⟩ := hsame
  exact ⟨_, cycleOfStepsIsTheCycleFunction _ h, cycleOfStepsIsTheCycleFunction _ h⟩

/-! The events of a cycle, counted (R201). -/

/-- The output of the cycle function for the coming cycle of `s`. -/
def State.cycleOut (s : State) : CycleOut := cycle s.params s.persistent s.cycleSamples

theorem trace_afterCycle (s : State) : s.afterCycle.trace = s.trace ++ s.cycleOut.events := rfl

/-- A count that takes no `SelWrite` and no `Sample` counts the engine's and the sinks' events of a cycle. -/
theorem countP_cycle_events {q : Event → Bool} (hsel : ∀ a, q (.selWrite a) = false)
    (hsig : ∀ a l, q (.sampleSig a l) = false) (hdirect : ∀ l, q (.sampleCol0 l) = false) (s : State) :
    s.cycleOut.events.countP q =
      (engineEvents s.cycleOut.flags s.persistent s.cycleOut.next).countP q +
      (frame s.params s.cycleOut.next.dbg s.cycleOut.rpt s.cycleOut.row s.cycleOut.col).countP q +
      (txEvents s.params s.cycleOut.next.strm s.cycleOut.rpt).countP q := by
  have hscan : (scanEvents s.params s.cycleSamples).countP q = 0 := by
    refine List.countP_eq_zero.mpr fun e he => ?_
    simp only [scanEvents, List.mem_append, List.mem_flatMap, List.mem_cons, List.not_mem_nil, or_false] at he
    rcases he with (⟨r, -, rfl | rfl⟩ | rfl) | ⟨j, -, rfl | rfl⟩ <;> simp [hsel, hsig, hdirect]
  simp only [State.cycleOut, cycle, List.countP_append, hscan, Nat.zero_add]

/-- The engine's count, event by event. -/
theorem countP_engineEvents (q : Event → Bool) (f : Flags) (old new : Persistent) :
    (engineEvents f old new).countP q =
      (if edge f old.prevCaps then [.capsOut (bitLevel new.caps)].countP q else 0) +
      (if chDbg f then [.disp (.confirm .dbgMode new.dbg), .pause .confirm].countP q else 0) +
      (if chStrm f then [.disp (.confirm .stream new.strm), .pause .confirm].countP q else 0) := by
  simp only [engineEvents, List.countP_append, apply_ite (List.countP q), List.countP_nil]

/-- The frame's count, event by event. -/
theorem countP_frame (q : Event → Bool) (p : Params) (dbg : Bool) (rpt : List Byte) (row : RowSet) (col : ColSet) :
    (frame p dbg rpt row col).countP q = [.disp .clear].countP q +
      (if dbg then [.disp (.debugText rpt)].countP q else 0) +
      (pressedList p row col).countP fun sym => q (.disp (.keyLine sym)) := by
  simp only [frame, keyLines, List.countP_append, apply_ite (List.countP q), List.countP_nil, List.countP_map]
  rfl

theorem countP_txEvents (q : Event → Bool) (p : Params) (strm : Bool) (rpt : List Byte) :
    (txEvents p strm rpt).countP q = if strm then [.tx (rpt ++ p.newline)].countP q else 0 := by
  simp only [txEvents, apply_ite (List.countP q), List.countP_nil]

/-- The chord of a mode flag (R34). -/
def chordOf : ModeFlag → Flags → Bool
  | .dbgMode => chDbg
  | .stream => chStrm

/-- A mode flag of the state (R27, R28). -/
def State.modeFlag (s : State) : ModeFlag → Bool
  | .dbgMode => s.dbg
  | .stream => s.strm

theorem modeFlag_afterCycle (s : State) (which : ModeFlag) :
    s.afterCycle.modeFlag which = (s.modeFlag which ^^ chordOf which s.cycleOut.flags) := by
  cases which <;> rfl

theorem countP_confirm (s : State) (which : ModeFlag) :
    s.cycleOut.events.countP (isConfirm which) = if chordOf which s.cycleOut.flags then 1 else 0 := by
  rw [countP_cycle_events (fun _ => rfl) (fun _ _ => rfl) (fun _ => rfl)]
  cases which <;> simp [countP_engineEvents, countP_frame, countP_txEvents, isConfirm] <;> rfl

theorem countP_confirmPause (s : State) : s.cycleOut.events.countP isConfirmPause =
    (if chDbg s.cycleOut.flags then 1 else 0) + if chStrm s.cycleOut.flags then 1 else 0 := by
  rw [countP_cycle_events (fun _ => rfl) (fun _ _ => rfl) (fun _ => rfl)]
  simp [countP_engineEvents, countP_frame, countP_txEvents, isConfirmPause]

theorem countP_capsOut (s : State) : s.cycleOut.events.countP isCapsOut =
    if edge s.cycleOut.flags s.prevCaps then 1 else 0 := by
  rw [countP_cycle_events (fun _ => rfl) (fun _ _ => rfl) (fun _ => rfl)]
  simp [countP_engineEvents, countP_frame, countP_txEvents, isCapsOut]
  rfl

theorem count_clear (s : State) : s.cycleOut.events.count (.disp .clear) = 1 := by
  rw [List.count, countP_cycle_events (fun _ => rfl) (fun _ _ => rfl) (fun _ => rfl)]
  simp [countP_engineEvents, countP_frame, countP_txEvents]

theorem countP_debugText (s : State) :
    s.cycleOut.events.countP isDebugText = if s.cycleOut.next.dbg then 1 else 0 := by
  rw [countP_cycle_events (fun _ => rfl) (fun _ _ => rfl) (fun _ => rfl)]
  simp [countP_engineEvents, countP_frame, countP_txEvents, isDebugText]

theorem countP_keyLine (s : State) : s.cycleOut.events.countP isKeyLine =
    countBits s.cycleOut.row.toList * countBits s.cycleOut.col.toList := by
  rw [countP_cycle_events (fun _ => rfl) (fun _ _ => rfl) (fun _ => rfl)]
  simp [countP_engineEvents, countP_frame, countP_txEvents, isKeyLine, pressedList, length_activePairs]

theorem countP_splash (s : State) : s.cycleOut.events.countP isSplash = 0 := by
  rw [countP_cycle_events (fun _ => rfl) (fun _ _ => rfl) (fun _ => rfl)]
  simp [countP_engineEvents, countP_frame, countP_txEvents, isSplash]

/-! A held chord (R165). -/

/-- From `s` to `t` the mode flag has been complemented `m` times, with `m` confirmations and at least `m` pauses. -/
def ToggledTimes (which : ModeFlag) (m : Nat) (s t : State) : Prop :=
  t.modeFlag which = (s.modeFlag which ^^ decide (m % 2 = 1)) ∧
  t.trace.countP (isConfirm which) = s.trace.countP (isConfirm which) + m ∧
  s.trace.countP isConfirmPause + m ≤ t.trace.countP isConfirmPause

theorem toggledTimes_zero (which : ModeFlag) (s : State) : ToggledTimes which 0 s s := by
  simp [ToggledTimes]

theorem decide_succ_mod_two (m : Nat) : decide ((m + 1) % 2 = 1) = !decide (m % 2 = 1) := by
  rw [← decide_not, decide_eq_decide]
  omega

/-- A cycle in which the chord is present toggles once more. -/
theorem ToggledTimes.afterCycle {which : ModeFlag} {m : Nat} {s t : State} (h : ToggledTimes which m s t)
    (hchord : chordOf which t.afterCycle.flags = true) : ToggledTimes which (m + 1) s t.afterCycle := by
  obtain ⟨hflag, hconfirms, hpauses⟩ := h
  have hchord' : chordOf which t.cycleOut.flags = true := hchord
  refine ⟨?_, ?_, ?_⟩
  · rw [modeFlag_afterCycle, hchord', hflag, Bool.xor_true, decide_succ_mod_two]
    exact (Bool.xor_not _ _).symm
  · rw [trace_afterCycle, List.countP_append, countP_confirm, if_pos hchord', hconfirms, Nat.add_assoc]
  · have hpause : 1 ≤ t.cycleOut.events.countP isConfirmPause := by
      rw [countP_confirmPause]
      cases which with
      | dbgMode =>
        rw [if_pos (show chDbg t.cycleOut.flags = true from hchord)]
        omega
      | stream =>
        rw [if_pos (show chStrm t.cycleOut.flags = true from hchord)]
        omega
    rw [trace_afterCycle, List.countP_append]
    omega

theorem toggledTimes_afterCycles {which : ModeFlag} {m : Nat} {s : State}
    (hheld : ∀ j < m, chordOf which (s.afterCycles (j + 1)).flags = true) : ToggledTimes which m s (s.afterCycles m) := by
  induction m with
  | zero => exact toggledTimes_zero which s
  | succ m ih =>
    have hchord := hheld m (Nat.lt_succ_self m)
    rw [State.afterCycles_succ] at hchord ⊢
    exact (ih fun j hj => hheld j (Nat.lt_succ_of_lt hj)).afterCycle hchord

/-- Settles O50: both chords at once, each cycle toggling its flag as the cycle function does. -/
theorem heldChordTogglesInEveryCycle : Obligations.HeldChordTogglesInEveryCycle :=
  fun m _ h => ⟨h.runs_afterCycles m, toggledTimes_afterCycles (which := .dbgMode),
    toggledTimes_afterCycles (which := .stream)⟩

/-! The caps line (R169). -/

/-- `PREVCAPS` at the start of a cycle is the presence of caps in the cycle before. -/
theorem prevCaps_afterCycles (m : Nat) (s : State) :
    (s.afterCycles m).prevCaps = if m = 0 then s.prevCaps else (s.afterCycles m).flags.caps := by
  cases m with
  | zero => rfl
  | succ m =>
    rw [State.afterCycles_succ, if_neg (Nat.succ_ne_zero m)]
    simp only [State.afterCycle, cycle, Persistent.after]

theorem countP_capsOut_afterCycle (s : State) : s.afterCycle.trace.countP isCapsOut =
    s.trace.countP isCapsOut + if s.afterCycle.flags.caps && !s.prevCaps then 1 else 0 := by
  have hedge : (s.afterCycle.flags.caps && !s.prevCaps) = edge s.cycleOut.flags s.prevCaps := rfl
  rw [hedge, trace_afterCycle, List.countP_append, countP_capsOut]

/-- Settles O51: a cycle writes the line exactly on its rising edge, and `PREVCAPS` is the cycle before. -/
theorem capsLineIsWrittenOncePerPress : Obligations.CapsLineIsWrittenOncePerPress := by
  intro m s h
  refine ⟨h.runs_afterCycles m, ?_⟩
  induction m with
  | zero => rfl
  | succ m ih =>
    rw [State.afterCycles_succ, countP_capsOut_afterCycle, ih, prevCaps_afterCycles, List.range_succ, List.countP_append,
      Nat.add_assoc, List.countP_singleton, State.afterCycles_succ]

/-! The sinks (R196). -/

theorem countP_confirm_eq (s : State) (which : ModeFlag) : s.cycleOut.events.countP (isConfirm which) =
    if s.afterCycle.modeFlag which = s.modeFlag which then 0 else 1 := by
  rw [countP_confirm, modeFlag_afterCycle]
  cases chordOf which s.cycleOut.flags <;> simp

/-- What `TX` appends to the transmit stream (R191). -/
theorem State.txLines_of_txEvents {s t : State} {p : Params} {strm : Bool} {rpt : List Byte}
    (htrace : t.trace = s.trace ++ txEvents p strm rpt) :
    t.txLines = s.txLines ++ if strm then [rpt ++ p.newline] else [] := by
  unfold State.txLines
  rw [htrace, List.filterMap_append]
  cases strm <;> rfl

/-- The lines that a cycle sends: the scan, the engine and the frame send none (R198). -/
theorem txLines_afterCycle (s : State) : s.afterCycle.txLines =
    s.txLines ++ if s.afterCycle.strm then [s.afterCycle.rpt ++ s.params.newline] else [] := by
  let beforeTx := scanEvents s.params s.cycleSamples ++ engineEvents s.cycleOut.flags s.persistent s.cycleOut.next ++
    frame s.params s.cycleOut.next.dbg s.cycleOut.rpt s.cycleOut.row s.cycleOut.col
  have hsilent (bytes : List Byte) : .tx bytes ∉ beforeTx := by
    simp [beforeTx, scanEvents, engineEvents, tx_notMem_frame]
  have hbefore : State.txLines (s.emit beforeTx) = s.txLines := State.txLines_of_trace_append rfl hsilent
  rw [← hbefore]
  exact State.txLines_of_txEvents (List.append_assoc ..).symm

/-- Settles O52: the cycle's events are the cycle function's, counted part by part. -/
theorem cycleContentsOfTheSinks : Obligations.CycleContentsOfTheSinks :=
  fun s h => ⟨s.afterCycle, s.cycleOut.events, cycleOfStepsIsTheCycleFunction s h, rfl, countP_confirm_eq s .dbgMode,
    countP_confirm_eq s .stream, count_clear s, countP_debugText s, countP_keyLine s, countP_splash s, txLines_afterCycle s⟩

end Sys2Proof.Machine
end
